-- ==== Sys2Proof/Word.lean ====
section
/-! DEFINITION. The word types of the block. -/

namespace Sys2Proof

/-- A host-visible register, a command word, the data of a bus access (R20, R80, R53). -/
abbrev Word := BitVec 32

/-- A message byte (R50). -/
abbrev Byte := BitVec 8

/-- A byte offset of the host into the block, 21 bits (R52). -/
abbrev Offset := BitVec 21

end Sys2Proof
end

