-- ==== Sys2Proof/Config.lean ====
section
/-! DEFINITION. What an implementation fixes (00_scope.md R9), and the free values: constants without a body, so that
nothing in Lean can see their values. -/

namespace Sys2Proof.Config

/-- The datapath IMPL of R9: one message bit or one message byte per engine cycle. Log entry 11. -/
inductive Impl where
  | serial
  | parallel
deriving DecidableEq, Repr, Inhabited

/-- IMPL of the block at hand (R9). No result depends on it (R131). -/
opaque impl : Impl

/-- MSG_CAP less one, an open parameter below 2^20. -/
opaque msgCapLessOne : Fin 1048576

/-- MSG_CAP of the block at hand (R9, R50): some integer with 1 <= MSG_CAP <= 2^20. Log entry 1. -/
def msgCap : Nat := msgCapLessOne.val + 1

/-- The k-th free 32-bit value. Drawn where the spec says a value is unspecified (93_implementation_defined.md,
"any value"). Log entry 5. -/
opaque freeWord : Nat → Word

/-- The k-th free byte. Drawn for message bytes the spec leaves unspecified. Log entry 5. -/
opaque freeByte : Nat → Byte

end Sys2Proof.Config
end

