-- ==== Sys2Proof/Syntax.lean ====
section
/-! DEFINITION. The fourteen commands of the block, one constructor per row of spec/opcode_table.json. -/

namespace Sys2Proof

/-- The commands of R82. A command word carries no operand (R81), so no constructor has an argument. -/
inductive Instr where
  /-- REV8 (R102) -/
  | rev8
  /-- REFLECT (R104) -/
  | reflect
  /-- CRC4 (R125) -/
  | crc4
  /-- CRC7 (R126) -/
  | crc7
  /-- CRC8 (R127) -/
  | crc8
  /-- CRC16 (R128) -/
  | crc16
  /-- CRC8LE (R129) -/
  | crc8le
  /-- CRC16LSB (R130) -/
  | crc16lsb
  /-- LFSR8 (R152) -/
  | lfsr8
  /-- LFSR16 (R153) -/
  | lfsr16
  /-- PARITY8 (R170) -/
  | parity8
  /-- PARITYB (R171) -/
  | parityb
  /-- XORB (R172) -/
  | xorb
  /-- ADDB (R173) -/
  | addb
deriving DecidableEq, Repr

end Sys2Proof
end

