-- ==== Sys2Proof/Machine/Bus.lean ====
section
/-! DEFINITION. The host's side of the bus as data: access sizes, registers, accesses, responses, the host assembly
of 30_encoding.md, and whose turn it is. -/

namespace Sys2Proof.Machine

/-- The size of a bus access, 1, 2 or 4 bytes (R53). -/
inductive Size where
  | byte
  | half
  | word
deriving DecidableEq, Repr

/-- The twelve host-visible registers (R20). -/
inductive Reg where
  | cmd
  | status
  | poly
  | init
  | gen
  | key
  | data
  | bits
  | msgBase
  | msgLen
  | result
  | cap
deriving DecidableEq, Repr

/-- A host bus access (R53). -/
inductive Access where
  /-- HostRead(off, size) -/
  | read (off : Offset) (size : Size)
  /-- HostWrite(off, size, v) -/
  | write (off : Offset) (size : Size) (v : Word)
deriving DecidableEq, Repr

/-- The response that ends an access: OK or BUSERR (R53). -/
inductive BusResp where
  | ok
  | busErr
deriving DecidableEq, Repr

/-- What the host sees of an access. A read has data; a write has none (log entry 4). -/
structure Response where
  resp : BusResp
  data : Option Word
deriving DecidableEq, Repr

/-- One entry of the host's program: an access, or the polling loop `wait` of R88 (log entry 13). -/
inductive HostOp where
  | access (a : Access)
  | wait
deriving DecidableEq, Repr

/-- Who moves at a step: the host, the engine (R16), or the reset input asserted after power-on (R230). -/
inductive Turn where
  | host
  | engine
  | warmReset
deriving DecidableEq, Repr

/-- The CRC functions that `call` may name (R88). -/
inductive CrcFunction where
  | crc4
  | crc7
  | crc8
  | crc16
  | crc8le
  | crc16lsb
deriving DecidableEq, Repr

/-- The function calls of the pseudo-statement `call` (R88). -/
inductive Call where
  | reverse8 (x : Word)
  | reflectBytes (base n : Word)
  | crc (f : CrcFunction) (base n poly init : Word)
  | lfsrDigest8 (base n gen key : Word)
  | lfsrDigest16 (data bits gen key : Word)
  | parity8 (x : Word)
  | parityBytes (base n : Word)
  | xorBytes (base n : Word)
  | addBytes (base n : Word)
deriving DecidableEq, Repr

/-- A statement (R87) or pseudo-statement (R88) of the host assembly. The address `a` is an MBUF address. -/
inductive HostStmt where
  | wr (r : Reg) (imm : Word)
  | rd (r : Reg)
  | sb (a : Nat) (imm : BitVec 8)
  | sh (a : Nat) (imm : BitVec 16)
  | sw (a : Nat) (imm : Word)
  | lb (a : Nat)
  | lh (a : Nat)
  | lw (a : Nat)
  | issue (i : Instr)
  | wait
  | clr
  | run (i : Instr)
  | call (c : Call)
deriving DecidableEq, Repr

end Sys2Proof.Machine
end

