-- ==== Sys2Proof/Machine/State.lean ====
section
/-! DEFINITION. The state of the block, the reasons a step can stop, and the state after power-on reset. -/

namespace Sys2Proof.Machine

/-- MBUF (R50): the written cells, by strictly rising address. An unlisted address is UNINIT: it has no value (R36). -/
abbrev Memory := List Host.Cell

/-- The STATUS.ERR codes the block produces (R200). Codes 4 to 15 are never produced. -/
inductive ErrCode where
  | none
  | invalidLength
  | invalidBitCount
  | illegalCommand
deriving DecidableEq, Repr

/-- The sticky set of model faults (R37), one bit a member. -/
structure ModelFaults where
  uninitRead : Bool
  msgRace : Bool
deriving DecidableEq, Repr

/-- The snapshot S of the command in flight (R34). -/
structure Snapshot where
  cmd : Word
  poly : BitVec 16
  init : BitVec 16
  gen : BitVec 16
  key : BitVec 16
  data : Word
  bits : BitVec 8
  base : Word
  len : Word
  /-- The model's own mark: a message race has happened since issue (R240, log entry 8). -/
  raced : Bool
deriving DecidableEq, Repr

/-- Why the machine stops. Both are raised only by a completion whose snapshot no issue can make, so no run from
reset meets one (log entry 10). -/
inductive Fault where
  /-- Raised by a command that reads a message whose span leaves MBUF: R202 refuses it at issue and the spec gives it
  no effect. Safe: the model stops. -/
  | spanOutsideMbuf
  /-- Raised by LFSR16 with BITS > 32: R202 refuses it at issue and the spec gives it no effect. Safe: the model
  stops. -/
  | bitCountTooLarge
deriving DecidableEq, Repr

/-- Why a step has no meaning. -/
inductive Refusal where
  /-- Raised by an arm of `exec` whose instruction has no meaning yet. Safe: the model stops. -/
  | notModelled (mnemonic : String)
  /-- Raised by a command's completion when no command is in flight: R205 enables it exactly when the snapshot is
  present. `step` never asks for it. Safe: the model stops. -/
  | noCommandInFlight
  /-- Raised by the engine when the command word of the snapshot is Illegal: R205 says this is never so. Safe: the
  model stops (log entry 10). -/
  | illegalSnapshot
deriving DecidableEq, Repr

/-- The whole state: the block's own (R20, R26, R34, R36, R37), then the model's own fields. -/
structure State where
  /-- CMD: the last command word accepted for issue (R30). -/
  cmd : Word
  /-- STATUS.DONE (R26). -/
  done : Bool
  /-- STATUS.OVR (R26). -/
  ovr : Bool
  /-- STATUS.ERR (R26, R200). -/
  err : ErrCode
  /-- POLY, used bits (R20). -/
  poly : BitVec 16
  /-- INIT, used bits (R20). -/
  init : BitVec 16
  /-- GEN, used bits (R20). -/
  gen : BitVec 16
  /-- KEY, used bits (R20). -/
  key : BitVec 16
  /-- DATA (R20). -/
  data : Word
  /-- BITS, used bits (R20). -/
  bits : BitVec 8
  /-- MSG_BASE (R20). -/
  msgBase : Word
  /-- MSG_LEN (R20). -/
  msgLen : Word
  /-- RESULT (R31). -/
  result : Word
  /-- MSG_CAP, which CAP reads (R9, R22). No step changes it. -/
  cap : Nat
  /-- IMPL, the datapath that computes the CRCs (R9, R131, log entry 11). No step changes it. -/
  impl : Config.Impl
  /-- MBUF (R50). -/
  mbuf : Memory
  /-- The snapshot of the command in flight, if any (R34). -/
  snapshot : Option Snapshot
  /-- The model faults recorded so far (R37). -/
  faults : ModelFaults
  /-- The model's own: the response of the last bus access (R53, log entry 4). -/
  response : Option Response
  /-- The model's own: a command has completed and no STATUS read has returned BUSY = 0 since, so that a host read of
  RESULT is unspecified (R32, R69, log entry 18). -/
  resultUnseen : Bool
  /-- The model's own: how many free values have been drawn (log entry 5). -/
  draws : Nat
  /-- The model's own: what the host still has to do (R66, log entry 2). -/
  program : List HostOp
  /-- The model's own: whose turns come next (R67, log entry 2). -/
  schedule : List Turn
deriving DecidableEq, Repr

/-- The block right after power-on (R39, R230, R231). -/
def State.reset : State where
  cmd := 0
  done := false
  ovr := false
  err := .none
  poly := 0
  init := 0
  gen := 0
  key := 0
  data := 0
  bits := 0
  msgBase := 0
  msgLen := 0
  result := 0
  cap := Config.msgCap
  impl := Config.impl
  mbuf := []
  snapshot := Option.none
  faults := ModelFaults.mk false false
  response := Option.none
  resultUnseen := false
  draws := 0
  program := []
  schedule := []

end Sys2Proof.Machine
end

