-- ==== Sys2Proof/Machine/Flags.lean ====
section
/-! DEFINITION. The block's only flags, STATUS.BUSY, DONE, OVR, ERRV and ERR (R26 to R29). -/

namespace Sys2Proof.Machine

/-- The number of an error code (R200). -/
def ErrCode.code : ErrCode → BitVec 4
  | .none => 0
  | .invalidLength => 1
  | .invalidBitCount => 2
  | .illegalCommand => 3

/-- STATUS.BUSY is 1 exactly when the snapshot is present (R28, R34). -/
def State.busy (s : State) : Bool := s.snapshot.isSome

/-- STATUS.ERRV is ERR != 0 (R28). -/
def State.errv (s : State) : Bool := s.err != .none

/-- The value a read of STATUS returns (R26). -/
def State.statusWord (s : State) : Word :=
  (0 : BitVec 24) ++ s.err.code ++ BitVec.ofBool s.errv ++ BitVec.ofBool s.ovr ++ BitVec.ofBool s.done ++
    BitVec.ofBool s.busy

/-- HostWriteSTATUS of R27. -/
def State.writeStatus (s : State) (v : Word) : State :=
  { s with
    done := s.done && !v.getLsbD 1
    ovr := s.ovr && !v.getLsbD 2
    err := if v.getLsbD 3 then .none else s.err }

end Sys2Proof.Machine
end

