-- ==== Sys2Proof/Machine/Operands.lean ====
section
/-! DEFINITION. The operands a command takes from its snapshot (R24, R25, R81) and the bit orders in which a message
is consumed (R62). -/

namespace Sys2Proof.Machine

/-- P = S.POLY[W-1:0] (R25, R120). -/
def Snapshot.polyOf (S : Snapshot) (w : Nat) : BitVec w := S.poly.setWidth w

/-- I = S.INIT[W-1:0] (R25, R120). -/
def Snapshot.initOf (S : Snapshot) (w : Nat) : BitVec w := S.init.setWidth w

/-- S.GEN[W-1:0] (R25, R152, R153). -/
def Snapshot.genOf (S : Snapshot) (w : Nat) : BitVec w := S.gen.setWidth w

/-- S.KEY[W-1:0] (R25, R152, R153). -/
def Snapshot.keyOf (S : Snapshot) (w : Nat) : BitVec w := S.key.setWidth w

/-- S.DATA[7:0], the byte operand of REV8 and PARITY8 (R24). -/
def Snapshot.dataByte (S : Snapshot) : Byte := S.data.extractLsb' 0 8

/-- v[n-1], v[n-2], ..., v[0]: the low `n` bits of `v`, most significant first. -/
def lowBitsMsbFirst {w : Nat} (v : BitVec w) : Nat → List Bool
  | 0 => []
  | n + 1 => v.getLsbD n :: lowBitsMsbFirst v n

/-- v[0], v[1], ..., v[n-1]. -/
def lowBitsLsbFirst {w : Nat} (v : BitVec w) (n : Nat) : List Bool := (lowBitsMsbFirst v n).reverse

/-- The bits LFSR16 consumes: DATA[N-1] down to DATA[0] with N = S.BITS (R153). -/
def Snapshot.dataBits (S : Snapshot) : List Bool := lowBitsMsbFirst S.data S.bits.toNat

/-- MsbBit(0), MsbBit(1), ...: bit 7 of each byte first (R62). -/
def msbStream (msg : List Byte) : List Bool := msg.flatMap fun b => lowBitsMsbFirst b 8

/-- LsbBit(0), LsbBit(1), ...: bit 0 of each byte first (R62). -/
def lsbStream (msg : List Byte) : List Bool := msg.flatMap fun b => lowBitsLsbFirst b 8

/-- The commands that read a message (R24, R202). -/
def readsMessage : Instr → Bool
  | .rev8 => false
  | .reflect => true
  | .crc4 => true
  | .crc7 => true
  | .crc8 => true
  | .crc16 => true
  | .crc8le => true
  | .crc16lsb => true
  | .lfsr8 => true
  | .lfsr16 => false
  | .parity8 => false
  | .parityb => true
  | .xorb => true
  | .addb => true

/-- The span of `len` cells from `base` lies in MBUF, or is empty. The sum is exact (R200, R202). -/
def spanInMbuf (base len : Word) (cap : Nat) : Bool :=
  len == 0 || decide (base.toNat + len.toNat ≤ cap)

/-- LFSR16 accepts at most 32 bits (R153, R202). -/
def bitCountOk (bits : BitVec 8) : Bool := decide (bits.toNat ≤ 32)

/-- Address `a` lies in the span S.BASE .. S.BASE + S.LEN - 1 (R61). -/
def Snapshot.inSpan (S : Snapshot) (a : Nat) : Bool :=
  decide (S.base.toNat ≤ a) && decide (a < S.base.toNat + S.len.toNat)

end Sys2Proof.Machine
end

