-- ==== Sys2Proof/Machine/Ops.lean ====
section
/-! DEFINITION. The shared operations: MBUF, spans of it, model faults, races, taking and refusing a command, and the
completion of a command. -/

namespace Sys2Proof.Machine

/-! ### MBUF -/

/-- The canonical form of MBUF: addresses strictly rising. No entry can equal what an unlisted address reads as,
since that is no value. -/
abbrev Memory.wf (m : Memory) : Prop := m.Pairwise fun x y => x.1 < y.1

/-- Every written cell has an address below MSG_CAP (R50). -/
abbrev Memory.within (m : Memory) (cap : Nat) : Prop := ∀ c ∈ m, c.1 < cap

/-- The cell at address `a`: a byte, or no value if it is UNINIT (R36). -/
def Memory.read : Memory → Nat → Option Byte
  | [], _ => none
  | (k, b) :: m, a => if k = a then some b else Memory.read m a

/-- Write one byte. The cell stops being UNINIT (R56). -/
def Memory.write : Memory → Nat → Byte → Memory
  | [], a, v => [(a, v)]
  | (k, b) :: m, a, v =>
    if a < k then (a, v) :: (k, b) :: m
    else if a = k then (a, v) :: m
    else (k, b) :: Memory.write m a v

/-- Write the `n` low bytes of `v`, the byte in bits [7:0] at the lowest address: MemWrite of R56. -/
def Memory.writeLE (m : Memory) (a : Nat) : Nat → Word → Memory
  | 0, _ => m
  | n + 1, v => Memory.writeLE (m.write a (v.setWidth 8)) (a + 1) n (v >>> 8)

/-- The cells from `a` on, `n` of them, in address order. -/
def Memory.cells (m : Memory) (a : Nat) : Nat → List (Option Byte)
  | 0 => []
  | n + 1 => m.read a :: m.cells (a + 1) n

/-- Bytes assembled little-endian: the first in bits [7:0] (MemRead of R55). -/
def wordOfBytes : List Byte → Word
  | [] => 0
  | b :: bs => wordOfBytes bs <<< 8 ||| b.setWidth 32

/-- The cells of the span become UNINIT (R232). -/
def Memory.forgetSpan (m : Memory) (S : Snapshot) : Memory := m.filter fun c => !S.inSpan c.1

/-- The written cells of the span take free bytes, numbered from `k`: their contents are unspecified after a race
(R240, log entry 8). -/
def Memory.scrambleSpan (m : Memory) (S : Snapshot) (k : Nat) : Memory :=
  m.map fun c => if S.inSpan c.1 then (c.1, Config.freeByte (k + (c.1 - S.base.toNat))) else c

/-- The cells of the span of a command (R61). -/
def Snapshot.cells (S : Snapshot) (m : Memory) : List (Option Byte) := m.cells S.base.toNat S.len.toNat

/-! ### UNINIT cells in a message -/

/-- Some cell is UNINIT. -/
def hasUninit (cells : List (Option Byte)) : Bool := cells.any Option.isNone

/-- The cells as bytes, a 0 where a cell is UNINIT. -/
def zeroFill (cells : List (Option Byte)) : List Byte := cells.map fun c => c.getD 0

/-- Every filling in which exactly one bit of one UNINIT cell is 1 and the other UNINIT bits are 0. -/
def probes : List (Option Byte) → List (List Byte)
  | [] => []
  | some b :: cs => (probes cs).map (b :: ·)
  | none :: cs =>
    (List.range 8).map (fun j => BitVec.twoPow 8 j :: zeroFill cs) ++ (probes cs).map (0 :: ·)

/-- The result `f` of a message depends on its UNINIT cells: some single bit of one of them changes it. For the
results of the block, each affine over GF(2) or a sum, this is so exactly when two fillings of the UNINIT cells give
different results (log entry 7). -/
def dependsOnUninit {w : Nat} (f : List Byte → BitVec w) (cells : List (Option Byte)) : Bool :=
  (probes cells).any fun msg => f msg != f (zeroFill cells)

/-! ### Model faults and races -/

/-- Record `fault UninitRead` if `b` (R37, R58). -/
def State.recordUninit (s : State) (b : Bool) : State :=
  { s with faults := { s.faults with uninitRead := s.faults.uninitRead || b } }

/-- Record `fault MsgRace`: the contents of the span, and the result of the command in flight, are unspecified from
here on (R240). -/
def State.recordRace (s : State) (S : Snapshot) : State :=
  { s with
    faults := { s.faults with msgRace := true }
    snapshot := some { S with raced := true }
    mbuf := s.mbuf.scrambleSpan S s.draws
    draws := s.draws + S.len.toNat }

/-- The response of a bus access (R53). -/
def State.respond (s : State) (resp : BusResp) (data : Option Word) : State :=
  { s with response := some { resp := resp, data := data } }

/-! ### Issue: taking or refusing a command -/

/-- The snapshot of the live operand registers (R34, R201). -/
def State.capture (s : State) (v : Word) : Snapshot where
  cmd := v
  poly := s.poly
  init := s.init
  gen := s.gen
  key := s.key
  data := s.data
  bits := s.bits
  base := s.msgBase
  len := s.msgLen
  raced := false

/-- A command is accepted: CMD, DONE and ERR are written and BUSY becomes 1 (R201 with e = NONE). -/
def State.acceptCommand (s : State) (v : Word) : State :=
  { s with cmd := v, done := false, err := .none, snapshot := some (s.capture v) }

/-- The block's only error entry: a refused command writes CMD, DONE and ERR and nothing else (R201, R202, R209).
The host's way back is a STATUS write (R210, `State.writeStatus`). -/
def State.refuseCommand (s : State) (v : Word) (e : ErrCode) : State :=
  { s with cmd := v, done := false, err := e }

/-- A command written while another is in flight is dropped (R204). -/
def State.dropCommand (s : State) : State := { s with ovr := true }

/-! ### Completion -/

/-- The end of Complete(S): DONE <- 1 and the snapshot is gone (R205); the host has yet to see it (R69). After a race the span is unspecified once more
(R240), from free bytes of its own. -/
def State.finish (s : State) (S : Snapshot) : State :=
  { s with
    done := true
    snapshot := none
    resultUnseen := true
    mbuf := if S.raced then s.mbuf.scrambleSpan S s.draws else s.mbuf
    draws := if S.raced then s.draws + S.len.toNat else s.draws }

/-- The result of a command is unspecified: after a race (R240), or when it depends on an UNINIT cell (R205). -/
def resultOpen {w : Nat} (S : Snapshot) (cells : List (Option Byte)) (f : List Byte → BitVec w) : Bool :=
  S.raced || dependsOnUninit f cells

/-- RESULT <- zext_32(result) (R31). An open result is a free value of the command's width. -/
def State.writeResult {w : Nat} (s : State) (S : Snapshot) (cells : List (Option Byte))
    (f : List Byte → BitVec w) : State :=
  let isOpen := resultOpen S cells f
  let r : BitVec w := if isOpen then (Config.freeWord s.draws).setWidth w else f (zeroFill cells)
  { s with result := r.setWidth 32, draws := if isOpen then s.draws + 1 else s.draws }

/-- The completion of a command that reads the cells `cells` and whose result for a message is `f` (R205). -/
def State.completeValue {w : Nat} (s : State) (S : Snapshot) (cells : List (Option Byte))
    (f : List Byte → BitVec w) : State :=
  ((s.recordUninit (hasUninit cells)).writeResult S cells f).finish S

/-- The engine runs only a command in flight (R205). -/
def withSnapshot (s : State) (k : Snapshot → Host.Outcome State Fault Refusal) :
    Host.Outcome State Fault Refusal :=
  match s.snapshot with
  | none => .refused .noCommandInFlight
  | some S => k S

/-- A command over the message: its span lies in MBUF, since it passed validation (R61, R202). -/
def withSpan (s : State) (k : Snapshot → State) : Host.Outcome State Fault Refusal :=
  withSnapshot s fun S => if spanInMbuf S.base S.len s.cap then .next (k S) else .fault .spanOutsideMbuf

/-- Completion of a command whose result is `f` of its snapshot and of its message bytes. -/
def overMessage {w : Nat} (s : State) (f : Snapshot → List Byte → BitVec w) : Host.Outcome State Fault Refusal :=
  withSpan s fun S => s.completeValue S (S.cells s.mbuf) (f S)

/-- Completion of a command that reads no message and whose result is `f` of its snapshot. -/
def overOperands {w : Nat} (s : State) (f : Snapshot → BitVec w) : Host.Outcome State Fault Refusal :=
  withSnapshot s fun S => .next (s.completeValue S [] fun _ => f S)

/-- As `overOperands`, for a command whose bit count passed validation (R153, R202). -/
def overCountedBits {w : Nat} (s : State) (f : Snapshot → BitVec w) : Host.Outcome State Fault Refusal :=
  withSnapshot s fun S =>
    if bitCountOk S.bits then .next (s.completeValue S [] fun _ => f S) else .fault .bitCountTooLarge

end Sys2Proof.Machine
end

