-- ==== Sys2Proof/Machine/CrcSerial.lean ====
section
/-! DEFINITION. The serial core of the CRC generators (41_crc.md section 1), in the direct form that 90_conflicts.md C1
chooses. -/

namespace Sys2Proof.Machine

/-- StepMsb of R121. -/
def stepMsb {w : Nat} (p r : BitVec w) (b : Bool) : BitVec w :=
  let fb := r.getLsbD (w - 1) ^^ b
  let r' := r <<< 1
  if fb then r' ^^^ p else r'

/-- StepLsb of R122. -/
def stepLsb {w : Nat} (p r : BitVec w) (b : Bool) : BitVec w :=
  let fb := r.getLsbD 0 ^^ b
  let r' := r >>> 1
  if fb then r' ^^^ p else r'

/-- CrcMsb of R123 over a message, with polynomial `p` and initial remainder `i`. -/
def crcMsb {w : Nat} (p i : BitVec w) (msg : List Byte) : BitVec w := (msbStream msg).foldl (stepMsb p) i

/-- CrcLsb of R124. -/
def crcLsb {w : Nat} (p i : BitVec w) (msg : List Byte) : BitVec w := (lsbStream msg).foldl (stepLsb p) i

end Sys2Proof.Machine
end

