-- ==== Sys2Proof/Machine/CrcParallel.lean ====
section
/-! DEFINITION. The byte-wise CRC forms of R131, which a PARALLEL implementation uses, and the generator of each
implementation (log entry 11). -/

namespace Sys2Proof.Machine

/-- One of the eight shifts of an MSB-first byte step, in a register of `w` bits. -/
def shiftMsb {w : Nat} (p r : BitVec w) : BitVec w :=
  if r.getLsbD (w - 1) then r <<< 1 ^^^ p else r <<< 1

/-- One of the eight shifts of an LSB-first byte step. -/
def shiftLsb {w : Nat} (p r : BitVec w) : BitVec w :=
  if r.getLsbD 0 then r >>> 1 ^^^ p else r >>> 1

/-- A byte of the MSB-first form for W >= 8. -/
def byteMsb {w : Nat} (p r : BitVec w) (m : Byte) : BitVec w :=
  (shiftMsb p)^[8] (r ^^^ m.setWidth w <<< (w - 8))

/-- The MSB-first form for W >= 8 (CRC8, CRC16). -/
def crcMsbWide {w : Nat} (p i : BitVec w) (msg : List Byte) : BitVec w := msg.foldl (byteMsb p) i

/-- A byte of the MSB-first form for W < 8: an 8-bit register holds r in its top W bits. -/
def byteMsbNarrow (w : Nat) (q r : Byte) (m : Byte) : Byte :=
  (shiftMsb q)^[8] (r ^^^ m) &&& (BitVec.allOnes w).setWidth 8 <<< (8 - w)

/-- The MSB-first form for W < 8 (CRC4, CRC7). -/
def crcMsbNarrow {w : Nat} (p i : BitVec w) (msg : List Byte) : BitVec w :=
  let q : Byte := p.setWidth 8 <<< (8 - w)
  let r := msg.foldl (byteMsbNarrow w q) (i.setWidth 8 <<< (8 - w))
  (r >>> (8 - w)).setWidth w

/-- A byte of the LSB-first form (CRC8LE, CRC16LSB). -/
def byteLsb {w : Nat} (p r : BitVec w) (m : Byte) : BitVec w := (shiftLsb p)^[8] (r ^^^ m.setWidth w)

/-- The LSB-first form. -/
def crcLsbWide {w : Nat} (p i : BitVec w) (msg : List Byte) : BitVec w := msg.foldl (byteLsb p) i

/-- The MSB-first generator of an implementation (R9, R131). -/
def crcMsbBy (impl : Config.Impl) {w : Nat} (p i : BitVec w) (msg : List Byte) : BitVec w :=
  match impl with
  | .serial => crcMsb p i msg
  | .parallel => if w < 8 then crcMsbNarrow p i msg else crcMsbWide p i msg

/-- The LSB-first generator of an implementation (R9, R131). -/
def crcLsbBy (impl : Config.Impl) {w : Nat} (p i : BitVec w) (msg : List Byte) : BitVec w :=
  match impl with
  | .serial => crcLsb p i msg
  | .parallel => crcLsbWide p i msg

end Sys2Proof.Machine
end

