-- ==== Sys2Proof/Machine/Crc.lean ====
section
/-! DEFINITION. The six CRC commands (41_crc.md section 2), each computed by the datapath IMPL of the block (R9, R131). -/

namespace Sys2Proof.Machine

/-- CRC4 (R125). -/
def execCrc4 (s : State) : Host.Outcome State Fault Refusal :=
  overMessage s fun S => crcMsbBy s.impl (S.polyOf 4) (S.initOf 4)

/-- CRC7 (R126). -/
def execCrc7 (s : State) : Host.Outcome State Fault Refusal :=
  overMessage s fun S => crcMsbBy s.impl (S.polyOf 7) (S.initOf 7)

/-- CRC8 (R127). -/
def execCrc8 (s : State) : Host.Outcome State Fault Refusal :=
  overMessage s fun S => crcMsbBy s.impl (S.polyOf 8) (S.initOf 8)

/-- CRC16 (R128). -/
def execCrc16 (s : State) : Host.Outcome State Fault Refusal :=
  overMessage s fun S => crcMsbBy s.impl (S.polyOf 16) (S.initOf 16)

/-- CRC8LE (R129): polynomial, init and result stay in the reflected domain (90_conflicts.md C3). -/
def execCrc8le (s : State) : Host.Outcome State Fault Refusal :=
  overMessage s fun S => crcLsbBy s.impl (S.polyOf 8) (S.initOf 8)

/-- CRC16LSB (R130). -/
def execCrc16lsb (s : State) : Host.Outcome State Fault Refusal :=
  overMessage s fun S => crcLsbBy s.impl (S.polyOf 16) (S.initOf 16)

end Sys2Proof.Machine
end

