-- ==== Sys2Proof/Machine/Lfsr.lean ====
section
/-! DEFINITION. The LFSR Toeplitz digest engine (42_lfsr_digest.md). -/

namespace Sys2Proof.Machine

/-- KeyStep of R150: shift left, the top bit drops out and brings in the generator. -/
def keyStep {w : Nat} (g key : BitVec w) : BitVec w :=
  if key.getLsbD (w - 1) then key <<< 1 ^^^ g else key <<< 1

/-- One bit of the digest: accumulate first, then advance the key (R151). -/
def digestStep {w : Nat} (g : BitVec w) (acc : BitVec w × BitVec w) (b : Bool) : BitVec w × BitVec w :=
  (if b then acc.1 ^^^ acc.2 else acc.1, keyStep g acc.2)

/-- Digest of R151: the accumulator starts at 0, the key at `key0`. -/
def digest {w : Nat} (g key0 : BitVec w) (bits : List Bool) : BitVec w :=
  (bits.foldl (digestStep g) (0, key0)).1

/-- LFSR8 (R152). -/
def execLfsr8 (s : State) : Host.Outcome State Fault Refusal :=
  overMessage s fun S msg => digest (S.genOf 8) (S.keyOf 8) (msbStream msg)

/-- LFSR16 (R153). -/
def execLfsr16 (s : State) : Host.Outcome State Fault Refusal :=
  overCountedBits s fun S => digest (S.genOf 16) (S.keyOf 16) S.dataBits

end Sys2Proof.Machine
end

