-- ==== Sys2Proof/Machine/Parity.lean ====
section
/-! DEFINITION. Parity, XOR and sum reductions (43_parity_sum.md). -/

namespace Sys2Proof.Machine

/-- The number of 1 bits of a byte (R12). -/
def popcount (b : Byte) : Nat := (lowBitsMsbFirst b 8).count true

/-- popcount mod 2, one bit wide (R170). -/
def parity (b : Byte) : BitVec 1 := BitVec.ofNat 1 (popcount b % 2)

/-- The XOR of the parities of the bytes (R171). -/
def parityBytes (msg : List Byte) : BitVec 1 := msg.foldl (fun p b => p ^^^ parity b) 0

/-- The bytewise XOR of the message (R172). -/
def xorBytes (msg : List Byte) : Byte := msg.foldl (· ^^^ ·) 0

/-- The unsigned sum of the message bytes mod 2^32 (R173). -/
def addBytes (msg : List Byte) : Word := msg.foldl (fun t b => t + b.setWidth 32) 0

/-- PARITY8 (R170). -/
def execParity8 (s : State) : Host.Outcome State Fault Refusal :=
  overOperands s fun S => parity S.dataByte

/-- PARITYB (R171). -/
def execParityb (s : State) : Host.Outcome State Fault Refusal :=
  overMessage s fun _ => parityBytes

/-- XORB (R172). -/
def execXorb (s : State) : Host.Outcome State Fault Refusal :=
  overMessage s fun _ => xorBytes

/-- ADDB (R173). -/
def execAddb (s : State) : Host.Outcome State Fault Refusal :=
  overMessage s fun _ => addBytes

end Sys2Proof.Machine
end

