-- ==== Sys2Proof/Machine/Reflect.lean ====
section
/-! DEFINITION. Bit reflection: REV8 and REFLECT (40_bit_reflection.md). -/

namespace Sys2Proof.Machine

/-- rev8(x)[i] = x[7 - i] (R101). -/
def rev8 (x : Byte) : Byte :=
  BitVec.ofFnLE fun i : Fin 8 => x.getLsbD (7 - i.val)

/-- The 3-stage swap network of R103, another circuit for `rev8`. -/
def rev8Network (x : Byte) : Byte :=
  let t1 := (x &&& 0xF0) >>> 4 ||| (x &&& 0x0F) <<< 4
  let t2 := (t1 &&& 0xCC) >>> 2 ||| (t1 &&& 0x33) <<< 2
  (t2 &&& 0xAA) >>> 1 ||| (t2 &&& 0x55) <<< 1

/-- REV8 (R102). -/
def execRev8 (s : State) : Host.Outcome State Fault Refusal :=
  overOperands s fun S => rev8 S.dataByte

/-- The loop of Execute_REFLECT over the `n` cells from `a` on (R104). An UNINIT cell reads as the free byte number
`k` plus its place in the span (R58, log entry 7), and is written like any other. -/
def reflectCells (m : Memory) (a k : Nat) : Nat → Memory
  | 0 => m
  | n + 1 => reflectCells (m.write a (rev8 ((m.read a).getD (Config.freeByte k)))) (a + 1) (k + 1) n

/-- The span rewritten in place. RESULT is unchanged (R31, R104). -/
def State.reflectSpan (s : State) (S : Snapshot) : State :=
  let uninit := hasUninit (S.cells s.mbuf)
  { s.recordUninit uninit with
    mbuf := reflectCells s.mbuf S.base.toNat s.draws S.len.toNat
    draws := if uninit then s.draws + S.len.toNat else s.draws }

/-- REFLECT (R104). -/
def execReflect (s : State) : Host.Outcome State Fault Refusal :=
  withSpan s fun S => (s.reflectSpan S).finish S

end Sys2Proof.Machine
end

