-- ==== Sys2Proof/Machine/Dispatch.lean ====
section
/-! DEFINITION. The completion step of each command: the match of Complete(S) in R205. -/

namespace Sys2Proof.Machine

/-- The whole effect of command `i`, in flight in `s`, at its completion (R205). -/
def exec (i : Instr) (s : State) : Host.Outcome State Fault Refusal :=
  match i with
  | .rev8 => Sys2Proof.Machine.execRev8 s
  | .reflect => Sys2Proof.Machine.execReflect s
  | .crc4 => Sys2Proof.Machine.execCrc4 s
  | .crc7 => Sys2Proof.Machine.execCrc7 s
  | .crc8 => Sys2Proof.Machine.execCrc8 s
  | .crc16 => Sys2Proof.Machine.execCrc16 s
  | .crc8le => Sys2Proof.Machine.execCrc8le s
  | .crc16lsb => Sys2Proof.Machine.execCrc16lsb s
  | .lfsr8 => Sys2Proof.Machine.execLfsr8 s
  | .lfsr16 => Sys2Proof.Machine.execLfsr16 s
  | .parity8 => Sys2Proof.Machine.execParity8 s
  | .parityb => Sys2Proof.Machine.execParityb s
  | .xorb => Sys2Proof.Machine.execXorb s
  | .addb => Sys2Proof.Machine.execAddb s

end Sys2Proof.Machine
end

