-- ==== Sys2Proof/WellFormed.lean ====
section
/-! DEFINITION. Checks on what a host may write down: command words, commands, host statements. -/

namespace Sys2Proof

/-- The reserved field RSV of a command word is 0 (R80). -/
def CommandWord.rsvClear (c : Word) : Bool := c.extractLsb' 8 24 == 0

/-- The group field names one of the four groups (R80, R84). -/
def CommandWord.groupListed (c : Word) : Bool :=
  let grp := c.extractLsb' 4 4
  grp == 1 || grp == 2 || grp == 3 || grp == 4

/-- In groups 1, 3 and 4 the function is one of those listed (R82, R84). -/
def CommandWord.functionListed (c : Word) : Bool :=
  let grp := c.extractLsb' 4 4
  let fn := (c.extractLsb' 0 4).toNat
  if grp == 1 then decide (fn < 2)
  else if grp == 3 then decide (fn < 2)
  else if grp == 4 then decide (fn < 4)
  else true

/-- In the CRC group the reserved bit RSV3 is 0 (R80). -/
def CommandWord.crcBitClear (c : Word) : Bool := !(c.extractLsb' 4 4 == 2 && c.getLsbD 3)

/-- In the CRC group an LSB-first word has width 8 or 16: WSEL[1] = 1 (R84). -/
def CommandWord.crcWidthListed (c : Word) : Bool :=
  !(c.extractLsb' 4 4 == 2 && !c.getLsbD 3 && c.getLsbD 2 && !c.getLsbD 1)

/-- A command word that selects a command: every field is one R80, R82 and R84 admit. -/
def CommandWord.wellFormed (c : Word) : Bool :=
  CommandWord.rsvClear c && CommandWord.groupListed c && CommandWord.functionListed c &&
    CommandWord.crcBitClear c && CommandWord.crcWidthListed c

/-- A command carries no operand and no immediate (R81), so each of the fourteen is well-formed. -/
def Instr.wellFormed : Instr → Bool
  | .rev8 => true
  | .reflect => true
  | .crc4 => true
  | .crc7 => true
  | .crc8 => true
  | .crc16 => true
  | .crc8le => true
  | .crc16lsb => true
  | .lfsr8 => true
  | .lfsr16 => true
  | .parity8 => true
  | .parityb => true
  | .xorb => true
  | .addb => true

/-- The offset 0x100000 + a of a message address fits the 21-bit offset space (R52). -/
def Machine.HostStmt.addressFits (a : Nat) : Bool := decide (a < 2 ^ 20)

/-- A statement whose encoding exists (R87): a message address has an offset. Log entry 15. -/
def Machine.HostStmt.wellFormed : Machine.HostStmt → Bool
  | .wr _ _ => true
  | .rd _ => true
  | .sb a _ => Machine.HostStmt.addressFits a
  | .sh a _ => Machine.HostStmt.addressFits a
  | .sw a _ => Machine.HostStmt.addressFits a
  | .lb a => Machine.HostStmt.addressFits a
  | .lh a => Machine.HostStmt.addressFits a
  | .lw a => Machine.HostStmt.addressFits a
  | .issue i => i.wellFormed
  | .wait => true
  | .clr => true
  | .run i => i.wellFormed
  | .call _ => true

end Sys2Proof
end

