-- ==== Sys2Proof/Decode.lean ====
section
/-! DEFINITION. Decoding of command words (R83), total over all 2^32 words and rejecting by name, and the encoder
written from the field layout of R80 and the opcode map of R82. -/

namespace Sys2Proof

/-- Why a command word is Illegal (R84). -/
inductive DecodeError where
  /-- RSV, bits [31:8], is not 0. -/
  | reservedField
  /-- GRP is 0x0 or 0x5 to 0xF. -/
  | unlistedGroup
  /-- FN is not listed in group 0x1, 0x3 or 0x4. -/
  | unlistedFunction
  /-- RSV3 of a CRC word is 1 (0x28 to 0x2F). -/
  | reservedCrcBit
  /-- 0x24 or 0x25: there is no LSB-first CRC of width 4 or 7. -/
  | noLsbFirstWidth
deriving DecidableEq, Repr

/-- The field that makes a word with RSV = 0 illegal. -/
def illegalReason (c : Word) : DecodeError :=
  match (c.extractLsb' 4 4).toNat with
  | 1 => .unlistedFunction
  | 2 => if c.getLsbD 3 then .reservedCrcBit else .noLsbFirstWidth
  | 3 => .unlistedFunction
  | 4 => .unlistedFunction
  | _ => .unlistedGroup

/-- Decode of R83. -/
def decode (c : Word) : Except DecodeError Instr :=
  if c.extractLsb' 8 24 = 0 then
    match (c.extractLsb' 0 8).toNat with
    | 0x10 => .ok .rev8
    | 0x11 => .ok .reflect
    | 0x20 => .ok .crc4
    | 0x21 => .ok .crc7
    | 0x22 => .ok .crc8
    | 0x23 => .ok .crc16
    | 0x26 => .ok .crc8le
    | 0x27 => .ok .crc16lsb
    | 0x30 => .ok .lfsr8
    | 0x31 => .ok .lfsr16
    | 0x40 => .ok .parity8
    | 0x41 => .ok .parityb
    | 0x42 => .ok .xorb
    | 0x43 => .ok .addb
    | _ => .error (illegalReason c)
  else .error .reservedField

/-- The word with the fields RSV = 0, GRP and FN of R80. -/
def commandWord (grp fn : BitVec 4) : Word := (0 : BitVec 24) ++ grp ++ fn

/-- The FN field of a CRC word: RSV3 = 0, D and WSEL (R80). -/
def crcFunction (d : BitVec 1) (wsel : BitVec 2) : BitVec 4 := (0 : BitVec 1) ++ d ++ wsel

/-- The command word of a command (R82). -/
def encode : Instr → Word
  | .rev8 => commandWord 1 0
  | .reflect => commandWord 1 1
  | .crc4 => commandWord 2 (crcFunction 0 0)
  | .crc7 => commandWord 2 (crcFunction 0 1)
  | .crc8 => commandWord 2 (crcFunction 0 2)
  | .crc16 => commandWord 2 (crcFunction 0 3)
  | .crc8le => commandWord 2 (crcFunction 1 2)
  | .crc16lsb => commandWord 2 (crcFunction 1 3)
  | .lfsr8 => commandWord 3 0
  | .lfsr16 => commandWord 3 1
  | .parity8 => commandWord 4 0
  | .parityb => commandWord 4 1
  | .xorb => commandWord 4 2
  | .addb => commandWord 4 3

/-- The command word whose low `nbits` bits are those of `w` and whose other bits are 0. The command word is one
32-bit register value, so the numbering of spec/opcode_table.json is its own. -/
def tableWord (nbits w : Nat) : Word := BitVec.ofNat 32 (w % 2 ^ nbits)

/-- The command this decoder reads from a word numbered as spec/opcode_table.json numbers it. -/
def decodeTableWord (nbits w : Nat) : Option Instr :=
  match decode (tableWord nbits w) with
  | .ok i => some i
  | .error _ => none

end Sys2Proof
end

