-- ==== Sys2Proof/Machine/Issue.lean ====
section
/-! DEFINITION. A host write to CMD: issue, validation, and the dropped command (60_exceptions.md section 2). -/

namespace Sys2Proof.Machine

/-- Validate of R202: the first error that applies, in the order of R208. -/
def State.validate (s : State) (v : Word) : ErrCode :=
  match decode v with
  | .error _ => .illegalCommand
  | .ok c =>
    if readsMessage c && !spanInMbuf s.msgBase s.msgLen s.cap then .invalidLength
    else if c == .lfsr16 && !bitCountOk s.bits then .invalidBitCount
    else .none

/-- Issue(v) of R201, for BUSY = 0. -/
def State.issue (s : State) (v : Word) : State :=
  match s.validate v with
  | .none => s.acceptCommand v
  | e => s.refuseCommand v e

/-- A host write of `v` to CMD (R30): issue while BUSY = 0, dropped while BUSY = 1 (R204). -/
def State.writeCmd (s : State) (v : Word) : State :=
  if s.busy then s.dropCommand else s.issue v

end Sys2Proof.Machine
end

