-- ==== Sys2Proof/Machine/HostBus.lean ====
section
/-! DEFINITION. Host bus accesses: the map, BUSERR, the register window and the message window (20_memory.md). -/

namespace Sys2Proof.Machine

/-- The number of bytes of an access (R53). -/
def Size.bytes : Size → Nat
  | .byte => 1
  | .half => 2
  | .word => 4

/-- The register offsets (R20). -/
def Reg.offset : Reg → Offset
  | .cmd => 0x000
  | .status => 0x004
  | .poly => 0x008
  | .init => 0x00C
  | .gen => 0x010
  | .key => 0x014
  | .data => 0x018
  | .bits => 0x01C
  | .msgBase => 0x020
  | .msgLen => 0x024
  | .result => 0x028
  | .cap => 0x02C

/-- The register at an offset of the register window, none if the offset is reserved (R20, R54). -/
def regAt (off : Nat) : Option Reg :=
  match off with
  | 0x000 => some .cmd
  | 0x004 => some .status
  | 0x008 => some .poly
  | 0x00C => some .init
  | 0x010 => some .gen
  | 0x014 => some .key
  | 0x018 => some .data
  | 0x01C => some .bits
  | 0x020 => some .msgBase
  | 0x024 => some .msgLen
  | 0x028 => some .result
  | 0x02C => some .cap
  | _ => none

/-- The end of the register window (R52). -/
abbrev regWindowEnd : Nat := 0x001000

/-- The start of the message window (R52). -/
abbrev msgWindow : Nat := 0x100000

/-- The byte at offset `o` lies in a mapped range of R52. -/
def mapped (cap o : Nat) : Bool :=
  decide (o < regWindowEnd) || (decide (msgWindow ≤ o) && decide (o < msgWindow + cap))

/-- BusError of R53. -/
def busError (off : Offset) (size : Size) (cap : Nat) : Bool :=
  off.toNat % size.bytes != 0
    || (List.range size.bytes).any (fun j => !mapped cap (off.toNat + j))
    || (decide (off.toNat < regWindowEnd) && size != .word)

/-! ### The register window -/

/-- The value of a register, of RESULT where a read of it is specified (R20 to R31). -/
def State.regValue (s : State) : Reg → Word
  | .cmd => s.cmd
  | .status => s.statusWord
  | .poly => s.poly.setWidth 32
  | .init => s.init.setWidth 32
  | .gen => s.gen.setWidth 32
  | .key => s.key.setWidth 32
  | .data => s.data
  | .bits => s.bits.setWidth 32
  | .msgBase => s.msgBase
  | .msgLen => s.msgLen
  | .result => s.result
  | .cap => BitVec.ofNat 32 s.cap

/-- A host read of RESULT is unspecified: a command is in flight, or has completed and the host has not seen it yet
(R32, R69). -/
def State.resultUnspecified (s : State) : Bool := s.busy || s.resultUnseen

/-- What the host has learned from a read of register `r`: a STATUS read that returns BUSY = 0 shows the completion
(R32, R69, log entry 18). No register and no flag changes (R54, R60). -/
def State.observed (s : State) (r : Reg) : State :=
  { s with resultUnseen := s.resultUnseen && (r != .status || s.busy) }

/-- A read of the register window. A reserved offset reads 0 (R21); an unspecified RESULT reads a free value, drawn for
each read (R32, R69). -/
def State.readRegister (s : State) (off : Nat) : State :=
  match regAt off with
  | none => s.respond .ok (some 0)
  | some r =>
    if r == .result && s.resultUnspecified then
      { s with draws := s.draws + 1 }.respond .ok (some (Config.freeWord s.draws))
    else (s.observed r).respond .ok (some (s.regValue r))

/-- A write to a register. RESULT and CAP ignore it (R22); the operand registers keep their used bits (R21, R23). -/
def State.writeReg (s : State) (r : Reg) (v : Word) : State :=
  match r with
  | .cmd => s.writeCmd v
  | .status => s.writeStatus v
  | .poly => { s with poly := v.setWidth 16 }
  | .init => { s with init := v.setWidth 16 }
  | .gen => { s with gen := v.setWidth 16 }
  | .key => { s with key := v.setWidth 16 }
  | .data => { s with data := v }
  | .bits => { s with bits := v.setWidth 8 }
  | .msgBase => { s with msgBase := v }
  | .msgLen => { s with msgLen := v }
  | .result => s
  | .cap => s

/-- A write to the register window. A reserved offset ignores it (R21). -/
def State.writeRegister (s : State) (off : Nat) (v : Word) : State :=
  match regAt off with
  | none => s.respond .ok none
  | some r => (s.writeReg r v).respond .ok none

/-! ### The message window -/

/-- The access to the `n` cells from `a` on touches the span. -/
def Snapshot.touches (S : Snapshot) (a n : Nat) : Bool := (List.range n).any fun j => S.inSpan (a + j)

/-- The command of the snapshot is REFLECT. -/
def Snapshot.isReflect (S : Snapshot) : Bool :=
  match decode S.cmd with
  | .ok .reflect => true
  | _ => false

/-- The snapshot a host access races with (R240): an access to its span is a race if it writes, or if the command in
flight is REFLECT. -/
def State.racingSnapshot (s : State) (writes : Bool) (a n : Nat) : Option Snapshot :=
  s.snapshot.filter fun S => S.touches a n && (writes || S.isReflect)

/-- The data of a read of `n` cells: assembled little-endian, or a free value of `n` bytes if it is unspecified (R55, R58,
R240; log entries 6 and 8). -/
def readData (cells : List (Option Byte)) (n : Nat) (isOpen : Bool) (k : Nat) : Word :=
  if isOpen then ((Config.freeWord k).setWidth (8 * n)).setWidth 32 else wordOfBytes (zeroFill cells)

/-- A read of `n` cells of MBUF from `a` on (R55). -/
def State.readMessage (s : State) (a n : Nat) : State :=
  let cells := s.mbuf.cells a n
  let uninit := hasUninit cells
  match s.racingSnapshot false a n with
  | some S =>
    (({ s.recordUninit uninit with draws := s.draws + 1 }).recordRace S).respond .ok
      (some (readData cells n true s.draws))
  | none =>
    ({ s.recordUninit uninit with draws := if uninit then s.draws + 1 else s.draws }).respond .ok
      (some (readData cells n uninit s.draws))

/-- A write of the `n` low bytes of `v` to MBUF from `a` on (R56). -/
def State.writeMessage (s : State) (a n : Nat) (v : Word) : State :=
  let s' := { s with mbuf := s.mbuf.writeLE a n v }
  match s.racingSnapshot true a n with
  | some S => (s'.recordRace S).respond .ok none
  | none => s'.respond .ok none

/-! ### An access -/

/-- HostRead(off, size) of R53. -/
def State.hostRead (s : State) (off : Offset) (size : Size) : State :=
  if busError off size s.cap then s.respond .busErr (some 0)
  else if off.toNat < regWindowEnd then s.readRegister off.toNat
  else s.readMessage (off.toNat - msgWindow) size.bytes

/-- HostWrite(off, size, v) of R53. -/
def State.hostWrite (s : State) (off : Offset) (size : Size) (v : Word) : State :=
  if busError off size s.cap then s.respond .busErr none
  else if off.toNat < regWindowEnd then s.writeRegister off.toNat v
  else s.writeMessage (off.toNat - msgWindow) size.bytes v

/-- One host bus access (R53, R59). -/
def State.access (s : State) : Access → State
  | .read off size => s.hostRead off size
  | .write off size v => s.hostWrite off size v

/-- One round of `wait`: the access `rd STATUS` (R88). -/
def State.poll (s : State) : State := s.hostRead Reg.status.offset .word

end Sys2Proof.Machine
end

