-- ==== Sys2Proof/Machine/Reset.lean ====
section
/-! DEFINITION. A warm reset (R230, R232). Power-on is `State.reset`. -/

namespace Sys2Proof.Machine

/-- MBUF after a warm reset: unchanged, but the span of a REFLECT in flight becomes UNINIT (R232). -/
def State.mbufAfterReset (s : State) : Memory :=
  match s.snapshot with
  | some S => if S.isReflect then s.mbuf.forgetSpan S else s.mbuf
  | none => s.mbuf

/-- The reset input asserted after power-on: every register to its reset value, the command in flight discarded, the
model faults kept (R230, R232, R39). -/
def State.warmReset (s : State) : State :=
  { s with
    cmd := 0
    done := false
    ovr := false
    err := .none
    poly := 0
    init := 0
    gen := 0
    key := 0
    data := 0
    bits := 0
    msgBase := 0
    msgLen := 0
    result := 0
    mbuf := s.mbufAfterReset
    snapshot := none
    resultUnseen := false }

end Sys2Proof.Machine
end

