-- ==== Sys2Proof/Machine/Agents.lean ====
section
/-! DEFINITION. What each agent does when it moves (R16, R67). An agent with nothing to do leaves the state as it is
(log entry 3). -/

namespace Sys2Proof.Machine

/-- The host performs the next access of its program. `wait` stays in the program until the STATUS value it reads has
BUSY = 0 (R88). -/
def hostTurn (s : State) : State :=
  match s.program with
  | [] => s
  | .access a :: ops => { s with program := ops }.access a
  | .wait :: ops =>
    if s.statusWord.getLsbD 0 then s.poll else { s.poll with program := ops }

/-- The engine completes the command in flight (R205). -/
def engineTurn (s : State) : Host.Outcome State Fault Refusal :=
  match s.snapshot with
  | none => .next s
  | some S =>
    match decode S.cmd with
    | .ok i => exec i s
    | .error _ => .refused .illegalSnapshot

/-- The move of an agent. -/
def takeTurn (s : State) : Turn → Host.Outcome State Fault Refusal
  | .host => .next (hostTurn s)
  | .engine => engineTurn s
  | .warmReset => .next s.warmReset

/-- Whose turn it is once the schedule is used up: a command in flight completes before the host moves again, which
makes completion fair (R246, log entry 2). -/
def State.dueTurn (s : State) : Turn := if s.busy then .engine else .host

end Sys2Proof.Machine
end

