-- ==== Sys2Proof/Machine/Step.lean ====
section
/-! DEFINITION. One step of the machine, and the state in which a given command word is about to run. -/

namespace Sys2Proof.Machine

/-- One step: one host access, one completion, or one reset (R67). -/
def step (s : State) : Host.Outcome State Fault Refusal :=
  match s.schedule with
  | t :: ts => takeTurn { s with schedule := ts } t
  | [] => takeTurn s s.dueTurn

/-- `s` with the command word taken as an accepted CMD write takes it (R201), and the engine's turn next: the very
next step decodes the word in the snapshot and runs the command (R205). Log entry 9. -/
def State.withFetchWord (s : State) (nbits w : Nat) : State :=
  { s.acceptCommand (tableWord nbits w) with schedule := .engine :: s.schedule }

end Sys2Proof.Machine
end

