-- ==== Sys2Proof/Machine/HostAsm.lean ====
section
/-! DEFINITION. The host assembly (30_encoding.md section 4): the access each statement is (R87) and the expansions of
the pseudo-statements (R88). -/

namespace Sys2Proof.Machine

/-- The offset of an MBUF address (R52). -/
def msgOffset (a : Nat) : Offset := BitVec.ofNat 21 (msgWindow + a)

/-- `wr REG, imm32` -/
def wrReg (r : Reg) (v : Word) : HostOp := .access (.write r.offset .word v)

/-- `rd REG` -/
def rdReg (r : Reg) : HostOp := .access (.read r.offset .word)

/-- `run MNEM`: `issue MNEM` followed by `wait` (R88). -/
def runOps (i : Instr) : List HostOp := [wrReg .cmd (encode i), .wait]

/-- The command of a CRC function (R88). -/
def CrcFunction.instr : CrcFunction → Instr
  | .crc4 => .crc4
  | .crc7 => .crc7
  | .crc8 => .crc8
  | .crc16 => .crc16
  | .crc8le => .crc8le
  | .crc16lsb => .crc16lsb

/-- The expansion of a call (R88). -/
def Call.ops : Call → List HostOp
  | .reverse8 x => wrReg .data x :: runOps .rev8 ++ [rdReg .result]
  | .reflectBytes base n => wrReg .msgBase base :: wrReg .msgLen n :: runOps .reflect ++ [rdReg .status]
  | .crc f base n poly init =>
    wrReg .poly poly :: wrReg .init init :: wrReg .msgBase base :: wrReg .msgLen n ::
      runOps f.instr ++ [rdReg .status, rdReg .result]
  | .lfsrDigest8 base n gen key =>
    wrReg .gen gen :: wrReg .key key :: wrReg .msgBase base :: wrReg .msgLen n ::
      runOps .lfsr8 ++ [rdReg .status, rdReg .result]
  | .lfsrDigest16 data bits gen key =>
    wrReg .data data :: wrReg .bits bits :: wrReg .gen gen :: wrReg .key key ::
      runOps .lfsr16 ++ [rdReg .status, rdReg .result]
  | .parity8 x => wrReg .data x :: runOps .parity8 ++ [rdReg .result]
  | .parityBytes base n =>
    wrReg .msgBase base :: wrReg .msgLen n :: runOps .parityb ++ [rdReg .status, rdReg .result]
  | .xorBytes base n =>
    wrReg .msgBase base :: wrReg .msgLen n :: runOps .xorb ++ [rdReg .status, rdReg .result]
  | .addBytes base n =>
    wrReg .msgBase base :: wrReg .msgLen n :: runOps .addb ++ [rdReg .status, rdReg .result]

/-- What the host does for a statement of its assembly (R87, R88). -/
def HostStmt.ops : HostStmt → List HostOp
  | .wr r imm => [wrReg r imm]
  | .rd r => [rdReg r]
  | .sb a imm => [.access (.write (msgOffset a) .byte (imm.setWidth 32))]
  | .sh a imm => [.access (.write (msgOffset a) .half (imm.setWidth 32))]
  | .sw a imm => [.access (.write (msgOffset a) .word imm)]
  | .lb a => [.access (.read (msgOffset a) .byte)]
  | .lh a => [.access (.read (msgOffset a) .half)]
  | .lw a => [.access (.read (msgOffset a) .word)]
  | .issue i => [wrReg .cmd (encode i)]
  | .wait => [.wait]
  | .clr => [wrReg .status 0x0000000E]
  | .run i => runOps i
  | .call c => c.ops

/-- A program of the host assembly, as what the host does. -/
def assemble (p : List HostStmt) : List HostOp := p.flatMap HostStmt.ops

end Sys2Proof.Machine
end

