-- ==== Sys2Proof/Safety.lean ====
section
/-! DEFINITION. What claims are stated in: the invariant of the machine, runs, and the end of a run. -/

namespace Sys2Proof.Machine

/-- Command `i` may run from this snapshot: what validation checked at issue, in the arithmetic of R202. -/
def Snapshot.validFor (S : Snapshot) (i : Instr) (cap : Nat) : Prop :=
  (readsMessage i = true → S.len.toNat ≠ 0 → S.base.toNat + S.len.toNat ≤ cap) ∧
    (i = .lfsr16 → S.bits.toNat ≤ 32)

/-- A snapshot some issue can make: its word decodes to a command that passed validation (R201, R202). -/
def Snapshot.validated (S : Snapshot) (cap : Nat) : Prop := ∃ i, decode S.cmd = .ok i ∧ S.validFor i cap

/-- The operands command `i` reads are the same in two snapshots (R24, R25). -/
def Snapshot.sameOperands (i : Instr) (S S' : Snapshot) : Prop :=
  match i with
  | .rev8 => S.data.setWidth 8 = S'.data.setWidth 8
  | .reflect => S.base = S'.base ∧ S.len = S'.len
  | .crc4 => S.poly.setWidth 4 = S'.poly.setWidth 4 ∧ S.init.setWidth 4 = S'.init.setWidth 4 ∧
      S.base = S'.base ∧ S.len = S'.len
  | .crc7 => S.poly.setWidth 7 = S'.poly.setWidth 7 ∧ S.init.setWidth 7 = S'.init.setWidth 7 ∧
      S.base = S'.base ∧ S.len = S'.len
  | .crc8 => S.poly.setWidth 8 = S'.poly.setWidth 8 ∧ S.init.setWidth 8 = S'.init.setWidth 8 ∧
      S.base = S'.base ∧ S.len = S'.len
  | .crc16 => S.poly = S'.poly ∧ S.init = S'.init ∧ S.base = S'.base ∧ S.len = S'.len
  | .crc8le => S.poly.setWidth 8 = S'.poly.setWidth 8 ∧ S.init.setWidth 8 = S'.init.setWidth 8 ∧
      S.base = S'.base ∧ S.len = S'.len
  | .crc16lsb => S.poly = S'.poly ∧ S.init = S'.init ∧ S.base = S'.base ∧ S.len = S'.len
  | .lfsr8 => S.gen.setWidth 8 = S'.gen.setWidth 8 ∧ S.key.setWidth 8 = S'.key.setWidth 8 ∧
      S.base = S'.base ∧ S.len = S'.len
  | .lfsr16 => S.gen = S'.gen ∧ S.key = S'.key ∧ S.data = S'.data ∧ S.bits = S'.bits
  | .parity8 => S.data.setWidth 8 = S'.data.setWidth 8
  | .parityb => S.base = S'.base ∧ S.len = S'.len
  | .xorb => S.base = S'.base ∧ S.len = S'.len
  | .addb => S.base = S'.base ∧ S.len = S'.len

/-- The width of the result of a command, none for REFLECT, which has no result (R31; files 40 to 43). -/
def resultWidth : Instr → Option Nat
  | .rev8 => some 8
  | .reflect => none
  | .crc4 => some 4
  | .crc7 => some 7
  | .crc8 => some 8
  | .crc16 => some 16
  | .crc8le => some 8
  | .crc16lsb => some 16
  | .lfsr8 => some 8
  | .lfsr16 => some 16
  | .parity8 => some 1
  | .parityb => some 1
  | .xorb => some 8
  | .addb => some 32

/-- The registers that hold the operands are the same (R23). -/
def State.sameOperandRegisters (s t : State) : Prop :=
  t.poly = s.poly ∧ t.init = s.init ∧ t.gen = s.gen ∧ t.key = s.key ∧ t.data = s.data ∧ t.bits = s.bits ∧
    t.msgBase = s.msgBase ∧ t.msgLen = s.msgLen

/-- An access to the `n` cells of MBUF from `a` on races with the command in flight: it touches the span, and it
writes or the command is REFLECT (R240). -/
def State.races (s : State) (writes : Bool) (a n : Nat) : Prop :=
  ∃ S, s.snapshot = some S ∧ (∃ j, j < n ∧ S.base.toNat ≤ a + j ∧ a + j < S.base.toNat + S.len.toNat) ∧
    (writes = true ∨ decode S.cmd = .ok .reflect)

/-- `m'` gives every UNINIT cell of the span some byte and keeps the cells that are written. -/
def Memory.fillsSpan (m m' : Memory) (S : Snapshot) : Prop :=
  ∀ a, S.inSpan a = true → (m'.read a).isSome ∧ ((m.read a).isSome → m'.read a = m.read a)

/-- The invariant every step keeps. -/
structure State.Inv (s : State) : Prop where
  /-- MSG_CAP is in its range (R9). -/
  capPositive : 1 ≤ s.cap
  capBound : s.cap ≤ 2 ^ 20
  /-- MBUF is in its canonical form, and holds no cell outside MBUF (R50). -/
  memoryCanonical : s.mbuf.wf
  memoryInside : s.mbuf.within s.cap
  /-- The command in flight passed validation (R202, R205), and CMD still holds its word (R30, R204). -/
  inFlightValidated : ∀ S, s.snapshot = some S → S.validated s.cap ∧ s.cmd = S.cmd
  /-- While BUSY = 1, DONE and ERR are 0 (R201, R205). -/
  busyQuiet : s.busy = true → s.done = false ∧ s.err = .none
  /-- DONE = 1 together with ERR != 0 is never reachable (R201, R205). -/
  doneNoError : s.done = true → s.err = .none

/-- `k` steps, stopping at the first fault or refusal. -/
def runSteps : Nat → State → Host.Outcome State Fault Refusal
  | 0, s => .next s
  | k + 1, s =>
    match step s with
    | .next t => runSteps k t
    | .fault r => .fault r
    | .refused r => .refused r

/-- The model-fault set is empty (R37). -/
def State.noModelFault (s : State) : Prop := s.faults = ModelFaults.mk false false

/-- The end of a run: the host has performed its last access, no command is in flight, and there is no model fault
(R248). DESIGN CHOICE: it does not look at the schedule, so a reset that is still scheduled keeps no state from being
final (log entry 19). -/
def State.final (s : State) : Prop := s.program = [] ∧ s.snapshot = none ∧ s.noModelFault

/-- A run of `k` steps from `s` that ends. DESIGN CHOICE: its last state is any final one, the first or one that later
turns lead to, a reset among them (log entry 19). -/
def EndsIn (k : Nat) (s t : State) : Prop := runSteps k s = .next t ∧ t.final

end Sys2Proof.Machine
end

