-- ==== Sys2Proof/Certificates/Slice0/Obligations.lean ====
section
/-! DEFINITION. The statements about the machine, from the numbered rules of spec/. The field `response` they speak of
is the model's record of the bus response, in which a write has no data (log entry 4). Every completion sets `resultUnseen`, the model's mark that the host has
yet to see it (R69, log entry 18): where a statement lists what a command changes, it comes with DONE and the
snapshot. -/

open Sys2Proof Sys2Proof.Machine

/-! ### Command words -/

/-- A few words of R82, and a word of each kind R84 names. -/
def Obligations.SampleWordsDecode : Prop :=
  decode 0b00000000000000000000000000010001#32 = .ok .reflect ∧
  decode 0b00000000000000000000000000100001#32 = .ok .crc7 ∧
  decode 0b00000000000000000000000000100111#32 = .ok .crc16lsb ∧
  decode 0b00000000000000000000000000110001#32 = .ok .lfsr16 ∧
  decode 0b00000000000000000000000001000011#32 = .ok .addb ∧
  decode 0b00000000000000000000000000100100#32 = .error .noLsbFirstWidth ∧
  decode 0b00000000000000000000000000101000#32 = .error .reservedCrcBit ∧
  decode 0b00000000000000000000000001000100#32 = .error .unlistedFunction ∧
  decode 0b00000000000000000000000001010000#32 = .error .unlistedGroup ∧
  decode 0b00000000000000000000000100100010#32 = .error .reservedField

/-- R83: over all 2^32 words, each command is decoded from its one word of R82, and every other word is Illegal. -/
def Obligations.DecodeFollowsOpcodeMap : Prop :=
  ∀ c : Word,
    (decode c = .ok .rev8 ↔ c = 0x00000010#32) ∧
    (decode c = .ok .reflect ↔ c = 0x00000011#32) ∧
    (decode c = .ok .crc4 ↔ c = 0x00000020#32) ∧
    (decode c = .ok .crc7 ↔ c = 0x00000021#32) ∧
    (decode c = .ok .crc8 ↔ c = 0x00000022#32) ∧
    (decode c = .ok .crc16 ↔ c = 0x00000023#32) ∧
    (decode c = .ok .crc8le ↔ c = 0x00000026#32) ∧
    (decode c = .ok .crc16lsb ↔ c = 0x00000027#32) ∧
    (decode c = .ok .lfsr8 ↔ c = 0x00000030#32) ∧
    (decode c = .ok .lfsr16 ↔ c = 0x00000031#32) ∧
    (decode c = .ok .parity8 ↔ c = 0x00000040#32) ∧
    (decode c = .ok .parityb ↔ c = 0x00000041#32) ∧
    (decode c = .ok .xorb ↔ c = 0x00000042#32) ∧
    (decode c = .ok .addb ↔ c = 0x00000043#32) ∧
    ((∃ e, decode c = .error e) ↔
      c.toNat ∉ [0x10, 0x11, 0x20, 0x21, 0x22, 0x23, 0x26, 0x27, 0x30, 0x31, 0x40, 0x41, 0x42, 0x43])

/-- Decoding an encoded well-formed command gives it back, and a word that decodes to a command is its encoding. -/
def Obligations.DecodeEncodeAgree : Prop :=
  (∀ i : Instr, i.wellFormed = true → decode (encode i) = .ok i) ∧
  (∀ (c : Word) (i : Instr), decode c = .ok i → c = encode i)

/-- R84: which words are Illegal, and that an Illegal word is refused at issue with ERR = IllegalCommand and changes
nothing else (CMD and DONE are the writes of the issue itself, R201). -/
def Obligations.IllegalWordsAreRefused : Prop :=
  (∀ c : Word, (∃ e, decode c = .error e) ↔
    (c.extractLsb' 8 24 ≠ 0 ∨
      (c.extractLsb' 4 4).toNat = 0 ∨ 5 ≤ (c.extractLsb' 4 4).toNat ∨
      ((c.extractLsb' 4 4).toNat = 1 ∧ 2 ≤ (c.extractLsb' 0 4).toNat) ∨
      ((c.extractLsb' 4 4).toNat = 3 ∧ 2 ≤ (c.extractLsb' 0 4).toNat) ∨
      ((c.extractLsb' 4 4).toNat = 4 ∧ 4 ≤ (c.extractLsb' 0 4).toNat) ∨
      (0x28 ≤ (c.extractLsb' 0 8).toNat ∧ (c.extractLsb' 0 8).toNat ≤ 0x2F) ∨
      (c.extractLsb' 0 8).toNat = 0x24 ∨ (c.extractLsb' 0 8).toNat = 0x25)) ∧
  (∀ (s : State) (c : Word) (e : DecodeError), s.busy = false → decode c = .error e →
    s.access (.write 0x000 .word c) =
      { s with cmd := c, done := false, err := .illegalCommand, response := some ⟨.ok, none⟩ })

/-! ### Bit reflection -/

/-- R101: bit i of rev8(x) is bit 7 - i of x. R103: the swap network computes the same function on every byte. -/
def Obligations.Rev8ReversesBits : Prop :=
  ∀ x : Byte, (∀ i, i < 8 → (rev8 x).getLsbD i = x.getLsbD (7 - i)) ∧ rev8Network x = rev8 x

/-- R102 and R170: REV8 completes with RESULT the reversal of DATA[7:0], PARITY8 with RESULT the number of 1 bits of
DATA[7:0] mod 2; each changes only RESULT, DONE and the snapshot. -/
def Obligations.ByteCommandsWriteTheirResults : Prop :=
  ∀ (s : State) (S : Snapshot), s.snapshot = some S → S.raced = false →
    (∃ y : Byte, (∀ i, i < 8 → y.getLsbD i = S.data.getLsbD (7 - i)) ∧
      exec .rev8 s = .next { s with
        result := y.setWidth 32, done := true, snapshot := none, resultUnseen := true }) ∧
    exec .parity8 s = .next { s with
      result := BitVec.ofNat 32 (((List.range 8).filter fun k => S.data.getLsbD k).length % 2)
      done := true, snapshot := none, resultUnseen := true }

/-- R104: REFLECT over a written span completes, reverses each byte of the span in place, and changes no byte outside
it and no register. -/
def Obligations.ReflectRewritesItsSpan : Prop :=
  ∀ (s : State) (S : Snapshot), s.snapshot = some S → S.raced = false → S.validFor .reflect s.cap →
    (∀ a, S.inSpan a = true → (s.mbuf.read a).isSome) →
    ∃ m : Memory, exec .reflect s = .next { s with
        mbuf := m, done := true, snapshot := none, resultUnseen := true } ∧
      ∀ a, m.read a = if S.inSpan a then (s.mbuf.read a).map rev8 else s.mbuf.read a

/-- R105: rev8 is an involution, two REFLECTs over one written span restore it, and after a REFLECT over a written span
the MSB-first stream of the span is its LSB-first stream of before. -/
def Obligations.ReflectionLaws : Prop :=
  (∀ x : Byte, rev8 (rev8 x) = x) ∧
  (∀ (s t u : State) (S : Snapshot), s.snapshot = some S → S.raced = false → S.validFor .reflect s.cap →
    (∀ a, S.inSpan a = true → (s.mbuf.read a).isSome) →
    exec .reflect s = .next t → exec .reflect { t with snapshot := some S } = .next u →
    ∀ a, u.mbuf.read a = s.mbuf.read a) ∧
  (∀ (s t : State) (S : Snapshot) (old : List Byte), s.snapshot = some S → S.raced = false →
    S.cells s.mbuf = old.map some → exec .reflect s = .next t →
    ∃ new : List Byte, S.cells t.mbuf = new.map some ∧ msbStream new = lsbStream old)

/-! ### CRC -/

/-- R121, R122 and R150, in the arithmetic of R12: the two serial CRC steps and the key advance. -/
def Obligations.ShiftRegisterStepsAsStated : Prop :=
  ∀ (w : Nat) (p r : BitVec w) (b : Bool), 0 < w →
    (stepMsb p r b).toNat =
      (if (r.getLsbD (w - 1) ^^ b) = true then r.toNat * 2 % 2 ^ w ^^^ p.toNat else r.toNat * 2 % 2 ^ w) ∧
    (stepLsb p r b).toNat =
      (if (r.getLsbD 0 ^^ b) = true then r.toNat / 2 ^^^ p.toNat else r.toNat / 2) ∧
    (keyStep p r).toNat =
      (if r.getLsbD (w - 1) = true then r.toNat * 2 % 2 ^ w ^^^ p.toNat else r.toNat * 2 % 2 ^ w)

/-- R123 and R124: the remainder starts at the initial value and takes the bits MsbBit(k) or LsbBit(k) of R62, k from
0 up to 8n - 1. -/
def Obligations.CrcRunsOverTheBitStream : Prop :=
  ∀ (w : Nat) (p i : BitVec w) (msg : List Byte),
    crcMsb p i msg =
      (List.range (8 * msg.length)).foldl
        (fun r k => stepMsb p r ((msg.getD (k / 8) 0).getLsbD (7 - k % 8))) i ∧
    crcLsb p i msg =
      (List.range (8 * msg.length)).foldl
        (fun r k => stepLsb p r ((msg.getD (k / 8) 0).getLsbD (k % 8))) i

/-- R125 to R130: over a written message, whatever the IMPL of the block, each CRC command completes with RESULT the
serial remainder in its width, from the low bits of POLY and INIT, and changes only RESULT, DONE and the snapshot. The
LSB-first commands reflect nothing. -/
def Obligations.CrcCommandsWriteTheRemainder : Prop :=
  ∀ (s : State) (S : Snapshot) (msg : List Byte), s.snapshot = some S → S.raced = false →
    S.validFor .crc4 s.cap → S.cells s.mbuf = msg.map some →
    exec .crc4 s = .next { s with
      result := (crcMsb (S.poly.setWidth 4) (S.init.setWidth 4) msg).setWidth 32
      done := true, snapshot := none, resultUnseen := true } ∧
    exec .crc7 s = .next { s with
      result := (crcMsb (S.poly.setWidth 7) (S.init.setWidth 7) msg).setWidth 32
      done := true, snapshot := none, resultUnseen := true } ∧
    exec .crc8 s = .next { s with
      result := (crcMsb (S.poly.setWidth 8) (S.init.setWidth 8) msg).setWidth 32
      done := true, snapshot := none, resultUnseen := true } ∧
    exec .crc16 s = .next { s with
      result := (crcMsb S.poly S.init msg).setWidth 32
      done := true, snapshot := none, resultUnseen := true } ∧
    exec .crc8le s = .next { s with
      result := (crcLsb (S.poly.setWidth 8) (S.init.setWidth 8) msg).setWidth 32
      done := true, snapshot := none, resultUnseen := true } ∧
    exec .crc16lsb s = .next { s with
      result := (crcLsb S.poly S.init msg).setWidth 32
      done := true, snapshot := none, resultUnseen := true }

/-- R131: the byte-wise generators of a PARALLEL implementation give the serial result on every input, for each width
of R120 and each bit order it has. -/
def Obligations.ParallelCrcEqualsSerial : Prop :=
  (∀ (impl : Config.Impl) (w : Nat) (p i : BitVec w) (msg : List Byte), w ∈ [4, 7, 8, 16] →
    crcMsbBy impl p i msg = crcMsb p i msg) ∧
  (∀ (impl : Config.Impl) (w : Nat) (p i : BitVec w) (msg : List Byte), w ∈ [8, 16] →
    crcLsbBy impl p i msg = crcLsb p i msg)

/-- R132 item 2: the MSB-first remainder is that of I(x)·x^(8n) + M(x)·x^W modulo G(x) = x^W + P(x) over GF(2). -/
def Obligations.CrcIsPolynomialRemainder : Prop :=
  ∀ (w : Nat) (p i : BitVec w) (msg : List Byte), 0 < w →
    let poly : BitVec w → Polynomial (ZMod 2) := fun v =>
      ∑ k ∈ Finset.range w, if v.getLsbD k then Polynomial.X ^ k else 0
    let message : Polynomial (ZMod 2) :=
      ∑ k ∈ Finset.range (8 * msg.length),
        if (msg.getD (k / 8) 0).getLsbD (7 - k % 8) then Polynomial.X ^ (8 * msg.length - 1 - k) else 0
    poly (crcMsb p i msg) =
      (poly i * Polynomial.X ^ (8 * msg.length) + message * Polynomial.X ^ w) %ₘ (Polynomial.X ^ w + poly p)

/-- R132 item 3: for one width, polynomial and length, the CRC of the XOR is the XOR of the CRCs. -/
def Obligations.CrcIsAffine : Prop :=
  ∀ (w : Nat) (p i j : BitVec w) (a b : List Byte), a.length = b.length →
    crcMsb p (i ^^^ j) (List.zipWith (· ^^^ ·) a b) = crcMsb p i a ^^^ crcMsb p j b ∧
    crcLsb p (i ^^^ j) (List.zipWith (· ^^^ ·) a b) = crcLsb p i a ^^^ crcLsb p j b

/-- R132 item 4 and the equivalence of R129: the LSB-first CRC of the reflected message, with reflected polynomial and
init, is the reflection of the MSB-first CRC. -/
def Obligations.CrcMirrorLaw : Prop :=
  ∀ (w : Nat) (p i : BitVec w) (msg : List Byte),
    crcLsb p.reverse i.reverse (msg.map rev8) = (crcMsb p i msg).reverse

/-- R132 items 1 and 5: the empty message gives the initial value; a zero polynomial shifts it out, whatever the
message holds. -/
def Obligations.CrcDegenerateCases : Prop :=
  ∀ (w : Nat) (p i : BitVec w) (msg : List Byte),
    crcMsb p i [] = i ∧ crcLsb p i [] = i ∧
    crcMsb 0 i msg = i <<< (8 * msg.length) ∧ crcLsb 0 i msg = i >>> (8 * msg.length)

/-! ### Digest -/

/-- R154 items 1, 2 and 4: the Toeplitz form (the XOR of the keys K_k at the 1 bits), linearity in the message, and
concatenation. -/
def Obligations.DigestLaws : Prop :=
  ∀ (w : Nat) (g key : BitVec w),
    (∀ bits : List Bool, digest g key bits =
      (List.range bits.length).foldl
        (fun acc k => if bits.getD k false then acc ^^^ (keyStep g)^[k] key else acc) 0) ∧
    (∀ a b : List Bool, a.length = b.length →
      digest g key (List.zipWith Bool.xor a b) = digest g key a ^^^ digest g key b) ∧
    (∀ a b : List Bool, digest g key (a ++ b) = digest g key a ^^^ digest g ((keyStep g)^[a.length] key) b)

/-- R152: over a written message, LFSR8 completes with RESULT the digest of the bits MsbBit(0) .. MsbBit(8n - 1) from
GEN[7:0] and KEY[7:0], and changes only RESULT, DONE and the snapshot. -/
def Obligations.Lfsr8WritesTheDigest : Prop :=
  ∀ (s : State) (S : Snapshot) (msg : List Byte), s.snapshot = some S → S.raced = false →
    S.validFor .lfsr8 s.cap → S.cells s.mbuf = msg.map some →
    exec .lfsr8 s = .next { s with
      result := (digest (S.gen.setWidth 8) (S.key.setWidth 8)
        ((List.range (8 * msg.length)).map fun k => (msg.getD (k / 8) 0).getLsbD (7 - k % 8))).setWidth 32
      done := true, snapshot := none, resultUnseen := true }

/-- R153: with BITS <= 32, LFSR16 completes with RESULT the digest of DATA[N-1], ..., DATA[0], N = BITS, and changes
only RESULT, DONE and the snapshot. -/
def Obligations.Lfsr16WritesTheDigest : Prop :=
  ∀ (s : State) (S : Snapshot), s.snapshot = some S → S.raced = false → S.bits.toNat ≤ 32 →
    exec .lfsr16 s = .next { s with
      result := (digest S.gen S.key
        ((List.range S.bits.toNat).map fun k => S.data.getLsbD (S.bits.toNat - 1 - k))).setWidth 32
      done := true, snapshot := none, resultUnseen := true }

/-! ### Reductions -/

/-- R171 to R173: over a written message, PARITYB, XORB and ADDB complete with RESULT their reduction, and change only
RESULT, DONE and the snapshot. -/
def Obligations.ReductionCommandsWriteTheirResults : Prop :=
  ∀ (s : State) (S : Snapshot) (msg : List Byte), s.snapshot = some S → S.raced = false →
    S.validFor .addb s.cap → S.cells s.mbuf = msg.map some →
    exec .parityb s = .next { s with
      result := (parityBytes msg).setWidth 32, done := true, snapshot := none, resultUnseen := true } ∧
    exec .xorb s = .next { s with
      result := (xorBytes msg).setWidth 32, done := true, snapshot := none, resultUnseen := true } ∧
    exec .addb s = .next { s with
      result := addBytes msg, done := true, snapshot := none, resultUnseen := true }

/-- What the reductions are: the parity of all 1 bits, for each bit position the parity of the bytes that have it, and
the sum mod 2^32, which is exact up to 2^20 bytes (R10, R171 to R173). -/
def Obligations.ReductionsAsStated : Prop :=
  ∀ msg : List Byte,
    (parityBytes msg).toNat = (msg.map popcount).sum % 2 ∧
    (∀ k, k < 8 → (xorBytes msg).getLsbD k = decide ((msg.filter fun b => b.getLsbD k).length % 2 = 1)) ∧
    (addBytes msg).toNat = (msg.map BitVec.toNat).sum % 2 ^ 32 ∧
    (msg.length ≤ 2 ^ 20 → (addBytes msg).toNat = (msg.map BitVec.toNat).sum ∧ (addBytes msg).toNat < 2 ^ 28)

/-- R174: PARITYB is PARITY8 of XORB; the three reductions do not depend on the order of the bytes; ADDB is at most
255 n. -/
def Obligations.ReductionLaws : Prop :=
  (∀ msg : List Byte, parityBytes msg = parity (xorBytes msg)) ∧
  (∀ a b : List Byte, a.Perm b →
    xorBytes a = xorBytes b ∧ parityBytes a = parityBytes b ∧ addBytes a = addBytes b) ∧
  (∀ msg : List Byte, (addBytes msg).toNat ≤ 255 * msg.length)

/-! ### Completion, over all fourteen commands and every form -/

/-- R205, R206, R23: every validated command completes, whether or not its message has UNINIT cells and whether or not
it raced (that a raced one completes and changes no more is log entry 8); DONE is set, BUSY is 0, no other flag, operand
register, CMD, CAP, IMPL or response changes, and exactly an UNINIT cell in its message adds UninitRead. -/
def Obligations.EveryValidatedCommandCompletes : Prop :=
  ∀ (i : Instr) (s : State) (S : Snapshot), s.snapshot = some S → S.validFor i s.cap →
    ∃ t, exec i s = .next t ∧ t.done = true ∧ t.snapshot = none ∧
      t.cmd = s.cmd ∧ t.ovr = s.ovr ∧ t.err = s.err ∧ s.sameOperandRegisters t ∧ t.cap = s.cap ∧
      t.impl = s.impl ∧ t.resultUnseen = true ∧ t.response = s.response ∧ t.program = s.program ∧ t.schedule = s.schedule ∧
      t.faults.msgRace = s.faults.msgRace ∧
      (t.faults.uninitRead = true ↔
        s.faults.uninitRead = true ∨
          (readsMessage i = true ∧ ∃ a, S.inSpan a = true ∧ s.mbuf.read a = none))

/-- Where a completion stops: a span that leaves MBUF, more than 32 bits, or nothing in flight. R202 and R205 keep
every run from these (log entry 10 is the model's choice of a stop there). -/
def Obligations.UnvalidatedCommandsStop : Prop :=
  (∀ (i : Instr) (s : State), s.snapshot = none → exec i s = .refused .noCommandInFlight) ∧
  (∀ (i : Instr) (s : State) (S : Snapshot), s.snapshot = some S → readsMessage i = true → S.len.toNat ≠ 0 →
    s.cap < S.base.toNat + S.len.toNat → exec i s = .fault .spanOutsideMbuf) ∧
  (∀ (s : State) (S : Snapshot), s.snapshot = some S → 32 < S.bits.toNat →
    exec .lfsr16 s = .fault .bitCountTooLarge)

/-- R31 and the corner cases of files 40 to 43: the bits of RESULT above the width of the result are 0, and REFLECT
leaves RESULT unchanged. Every form of the command: that these bits are 0 in a result that depends on an UNINIT cell, and
after a race, and that a race leaves RESULT to REFLECT as it is, is the model's choice (log entries 7 and 8). -/
def Obligations.ResultFitsItsWidth : Prop :=
  (∀ (i : Instr) (w : Nat) (s t : State), resultWidth i = some w → exec i s = .next t → t.result.toNat < 2 ^ w) ∧
  (∀ s t : State, exec .reflect s = .next t → t.result = s.result)

/-- R61 and R104: a completion changes no byte outside the span of the command in flight, never makes a written cell
UNINIT, and without a race only REFLECT changes MBUF at all; REFLECT leaves every cell of its span written. After a race
this is log entry 8, and for the UNINIT cells of REFLECT log entry 7. -/
def Obligations.CompletionTouchesOnlyItsSpan : Prop :=
  ∀ (i : Instr) (s t : State) (S : Snapshot), s.snapshot = some S → exec i s = .next t →
    (∀ a, S.inSpan a = false → t.mbuf.read a = s.mbuf.read a) ∧
    (∀ a, (s.mbuf.read a).isSome → (t.mbuf.read a).isSome) ∧
    (S.raced = false → i ≠ .reflect → t.mbuf = s.mbuf) ∧
    (i = .reflect → ∀ a, S.inSpan a = true → (t.mbuf.read a).isSome)

/-- R205 and S2 of 93_implementation_defined.md: over a message with UNINIT cells, a result on which every filling of
them agrees is that result; any other result is a free value of the command's width (log entry 7). -/
def Obligations.UninitResultOpenWhenItDepends : Prop :=
  ∀ (i : Instr) (w : Nat) (s t : State) (S : Snapshot), s.snapshot = some S → S.raced = false →
    readsMessage i = true → resultWidth i = some w → exec i s = .next t →
    ((∀ m₁ m₂ u₁ u₂, s.mbuf.fillsSpan m₁ S → s.mbuf.fillsSpan m₂ S →
        exec i { s with mbuf := m₁ } = .next u₁ → exec i { s with mbuf := m₂ } = .next u₂ →
        u₁.result = u₂.result) →
      ∀ m u, s.mbuf.fillsSpan m S → exec i { s with mbuf := m } = .next u → t.result = u.result) ∧
    ((∃ m₁ m₂ u₁ u₂, s.mbuf.fillsSpan m₁ S ∧ s.mbuf.fillsSpan m₂ S ∧
        exec i { s with mbuf := m₁ } = .next u₁ ∧ exec i { s with mbuf := m₂ } = .next u₂ ∧
        u₁.result ≠ u₂.result) →
      t.result = ((Config.freeWord s.draws).setWidth w).setWidth 32)

/-- R240: after a race the result of the command in flight is a free value of its width (log entry 8). -/
def Obligations.RacedResultIsFree : Prop :=
  ∀ (i : Instr) (w : Nat) (s : State) (S : Snapshot), s.snapshot = some S → S.raced = true →
    S.validFor i s.cap → resultWidth i = some w →
    ∃ t, exec i s = .next t ∧ t.result = ((Config.freeWord s.draws).setWidth w).setWidth 32

/-- R3, R9, R24, R25: a command's result is a function of the operand bits R24 lists for it and of the message bytes:
two states that agree on these, whatever else they hold, IMPL and MSG_CAP among it, give the same RESULT. -/
def Obligations.ResultDependsOnlyOnOperands : Prop :=
  ∀ (i : Instr) (w : Nat) (s s' t t' : State) (S S' : Snapshot), resultWidth i = some w →
    s.snapshot = some S → s'.snapshot = some S' → S.raced = false → S'.raced = false →
    S.sameOperands i S' →
    (readsMessage i = true → ∀ a, S.inSpan a = true →
      (s.mbuf.read a).isSome ∧ s'.mbuf.read a = s.mbuf.read a) →
    exec i s = .next t → exec i s' = .next t' → t'.result = t.result

/-! ### Issue -/

/-- R201, R202: a CMD write while BUSY = 0 writes CMD and DONE, validates in the order IllegalCommand, InvalidLength
(exact sum), InvalidBitCount, and on no error captures every operand register in the snapshot. -/
def Obligations.IssueValidatesAndCaptures : Prop :=
  ∀ (s : State) (v : Word), s.busy = false →
    let after (e : ErrCode) (S : Option Snapshot) : State :=
      { s with cmd := v, done := false, err := e, snapshot := S, response := some ⟨.ok, none⟩ }
    let badLength (i : Instr) : Prop :=
      i ∈ [.reflect, .crc4, .crc7, .crc8, .crc8le, .crc16, .crc16lsb, .lfsr8, .parityb, .xorb, .addb] ∧
        s.msgLen.toNat ≠ 0 ∧ s.cap < s.msgBase.toNat + s.msgLen.toNat
    let badCount (i : Instr) : Prop := i = .lfsr16 ∧ 32 < s.bits.toNat
    ((∃ d, decode v = .error d) → s.access (.write 0x000 .word v) = after .illegalCommand none) ∧
    (∀ i, decode v = .ok i →
      (badLength i → s.access (.write 0x000 .word v) = after .invalidLength none) ∧
      (badCount i → s.access (.write 0x000 .word v) = after .invalidBitCount none) ∧
      (¬ badLength i → ¬ badCount i →
        s.access (.write 0x000 .word v) = after .none (some
          { cmd := v, poly := s.poly, init := s.init, gen := s.gen, key := s.key, data := s.data,
            bits := s.bits, base := s.msgBase, len := s.msgLen, raced := false })))

/-- R204: a CMD write while BUSY = 1 is dropped: it sets OVR, its response is OK, and nothing else changes. -/
def Obligations.CommandWhileBusyIsDropped : Prop :=
  ∀ (s : State) (v : Word), s.busy = true →
    s.access (.write 0x000 .word v) = { s with ovr := true, response := some ⟨.ok, none⟩ }

/-- R34: a host write to any register while a command is in flight leaves the snapshot as it is, and the
command completes with the same result, the same MBUF and the same model faults. For a raced command, and over UNINIT
cells, the result and MBUF are the same only because the two states have drawn as many free values (log entry 5): there
it says that the write draws none, and nothing of the hardware. -/
def Obligations.CommandInFlightIgnoresRegisterWrites : Prop :=
  ∀ (i : Instr) (s t : State) (S : Snapshot) (r : Reg) (v : Word), s.snapshot = some S →
    (s.access (.write r.offset .word v)).snapshot = some S ∧
    (exec i s = .next t → ∃ u, exec i (s.access (.write r.offset .word v)) = .next u ∧
      u.result = t.result ∧ u.mbuf = t.mbuf ∧ u.faults = t.faults)

/-! ### STATUS -/

/-- R26, R28 and R60: what a read of STATUS returns, and that it changes nothing of the block. It shows the host a
completion if it returns BUSY = 0 (R69; the mark is log entry 18). -/
def Obligations.StatusReadsItsFields : Prop :=
  ∀ s : State, ∃ v : Word,
    s.access (.read 0x004 .word) =
      { s with response := some ⟨.ok, some v⟩, resultUnseen := s.resultUnseen && s.busy } ∧
    v.getLsbD 0 = s.snapshot.isSome ∧ v.getLsbD 1 = s.done ∧ v.getLsbD 2 = s.ovr ∧
    v.getLsbD 3 = decide (s.err ≠ .none) ∧
    v.extractLsb' 4 4 = (match s.err with
      | .none => 0
      | .invalidLength => 1
      | .invalidBitCount => 2
      | .illegalCommand => 3) ∧
    v.extractLsb' 8 24 = 0

/-- R27: a write of v to STATUS clears DONE, OVR and ERR where bits 1, 2 and 3 of v are 1, and changes nothing else. -/
def Obligations.StatusWriteClearsFlags : Prop :=
  ∀ (s : State) (v : Word),
    s.access (.write 0x004 .word v) =
      { s with
        done := if v.getLsbD 1 then false else s.done
        ovr := if v.getLsbD 2 then false else s.ovr
        err := if v.getLsbD 3 then .none else s.err
        response := some ⟨.ok, none⟩ }

/-- R29: a step changes STATUS only by a completion, a reset, or a host write to CMD or STATUS. R29 names the issue; that
a CMD write may also be dropped, which sets OVR (R204), is log entry 17. -/
def Obligations.FlagsChangeOnlyAtNamedEvents : Prop :=
  ∀ s t : State, step s = .next t → t.statusWord ≠ s.statusWord →
    (s.schedule.headD s.dueTurn = .engine ∧ s.busy = true) ∨ s.schedule.headD s.dueTurn = .warmReset ∨
    (s.schedule.headD s.dueTurn = .host ∧ ∃ (off : Offset) (v : Word) (ops : List HostOp),
      s.program = .access (.write off .word v) :: ops ∧ (off = 0x000 ∨ off = 0x004))

/-! ### The register window -/

/-- R20: a 32-bit read at each register's offset returns that register, zero-extended, and changes nothing of the
block (STATUS: StatusReadsItsFields). R32 and R69: RESULT reads as a free value, drawn for that read, while BUSY = 1 and
until a STATUS read has returned BUSY = 0 after the completion; from that read on it reads as its field (log
entry 18). -/
def Obligations.RegisterReadsReturnTheirFields : Prop :=
  (∀ (s : State) (off : Offset) (v : Word),
    ((off, v) ∈ [(0x000, s.cmd), (0x008, s.poly.setWidth 32), (0x00C, s.init.setWidth 32),
        (0x010, s.gen.setWidth 32), (0x014, s.key.setWidth 32), (0x018, s.data), (0x01C, s.bits.setWidth 32),
        (0x020, s.msgBase), (0x024, s.msgLen), (0x02C, BitVec.ofNat 32 s.cap)] ∨
      (s.busy = false ∧ s.resultUnseen = false ∧ off = 0x028 ∧ v = s.result)) →
    s.access (.read off .word) = { s with response := some ⟨.ok, some v⟩ }) ∧
  (∀ s : State, s.busy = true ∨ s.resultUnseen = true →
    s.access (.read 0x028 .word) =
      { s with draws := s.draws + 1, response := some ⟨.ok, some (Config.freeWord s.draws)⟩ }) ∧
  (∀ s : State, s.busy = false →
    ((s.access (.read 0x004 .word)).access (.read 0x028 .word)).response = some ⟨.ok, some s.result⟩)

/-- R21: unused bits read as 0, and a write does the same whatever it puts in them; a reserved offset reads 0 and
ignores a write; no BUSERR. -/
def Obligations.ReservedBitsAndOffsets : Prop :=
  (∀ (s : State) (v used : Word) (off : Offset),
    (off, used) ∈ [(0x004, 0xFF), (0x008, 0xFFFF), (0x00C, 0xFFFF), (0x010, 0xFFFF), (0x014, 0xFFFF), (0x01C, 0xFF)] →
    (∃ d : Word, (s.access (.read off .word)).response = some ⟨.ok, some d⟩ ∧ d &&& ~~~used = 0) ∧
    s.access (.write off .word v) = s.access (.write off .word (v &&& used)) ∧
    (s.access (.write off .word v)).response = some ⟨.ok, none⟩) ∧
  (∀ (s : State) (v : Word) (off : Offset), 0x030 ≤ off.toNat → off.toNat ≤ 0xFFC → off.toNat % 4 = 0 →
    s.access (.read off .word) = { s with response := some ⟨.ok, some 0⟩ } ∧
    s.access (.write off .word v) = { s with response := some ⟨.ok, none⟩ })

/-- R22: a write to RESULT or CAP has no effect and no BUSERR; CAP reads MSG_CAP; RESULT reads what the last
completion wrote (the field RESULT, once the completion is seen: R32, R69, log entry 18). -/
def Obligations.ReadOnlyRegistersIgnoreWrites : Prop :=
  ∀ (s : State) (v : Word),
    s.access (.write 0x028 .word v) = { s with response := some ⟨.ok, none⟩ } ∧
    s.access (.write 0x02C .word v) = { s with response := some ⟨.ok, none⟩ } ∧
    s.access (.read 0x02C .word) = { s with response := some ⟨.ok, some (BitVec.ofNat 32 s.cap)⟩ } ∧
    (s.busy = false → s.resultUnseen = false → s.access (.read 0x028 .word) = { s with response := some ⟨.ok, some s.result⟩ })

/-- R23: the host reads back from an operand register what it wrote, within the used bits, and the write changes that
register alone; no command writes an operand register. -/
def Obligations.OperandRegistersHoldWhatTheHostWrote : Prop :=
  (∀ (s : State) (v : Word),
    s.access (.write 0x008 .word v) = { s with poly := v.setWidth 16, response := some ⟨.ok, none⟩ } ∧
    s.access (.write 0x00C .word v) = { s with init := v.setWidth 16, response := some ⟨.ok, none⟩ } ∧
    s.access (.write 0x010 .word v) = { s with gen := v.setWidth 16, response := some ⟨.ok, none⟩ } ∧
    s.access (.write 0x014 .word v) = { s with key := v.setWidth 16, response := some ⟨.ok, none⟩ } ∧
    s.access (.write 0x018 .word v) = { s with data := v, response := some ⟨.ok, none⟩ } ∧
    s.access (.write 0x01C .word v) = { s with bits := v.setWidth 8, response := some ⟨.ok, none⟩ } ∧
    s.access (.write 0x020 .word v) = { s with msgBase := v, response := some ⟨.ok, none⟩ } ∧
    s.access (.write 0x024 .word v) = { s with msgLen := v, response := some ⟨.ok, none⟩ }) ∧
  (∀ (s : State) (v used : Word) (off : Offset),
    (off, used) ∈ [(0x008, 0xFFFF), (0x00C, 0xFFFF), (0x010, 0xFFFF), (0x014, 0xFFFF), (0x018, 0xFFFFFFFF),
      (0x01C, 0xFF), (0x020, 0xFFFFFFFF), (0x024, 0xFFFFFFFF)] →
    ((s.access (.write off .word v)).access (.read off .word)).response = some ⟨.ok, some (v &&& used)⟩) ∧
  (∀ (i : Instr) (s t : State), exec i s = .next t → s.sameOperandRegisters t)

/-! ### The bus and the message window -/

/-- R53: which accesses end with BUSERR (over the map of R52), and that such an access changes nothing of the block
and reads 0; any other access ends with OK. -/
def Obligations.BusErrorsHaveNoEffect : Prop :=
  ∀ (s : State) (off : Offset) (size : Size) (v : Word),
    let n := match size with
      | .byte => 1
      | .half => 2
      | .word => 4
    let bad : Prop :=
      off.toNat % n ≠ 0 ∨
      (∃ j, j < n ∧ ((0x001000 ≤ off.toNat + j ∧ off.toNat + j < 0x100000) ∨ 0x100000 + s.cap ≤ off.toNat + j)) ∨
      (off.toNat < 0x001000 ∧ n ≠ 4)
    (bad →
      s.access (.read off size) = { s with response := some ⟨.busErr, some 0⟩ } ∧
      s.access (.write off size v) = { s with response := some ⟨.busErr, none⟩ }) ∧
    (¬ bad →
      (∃ d, (s.access (.read off size)).response = some ⟨.ok, some d⟩) ∧
      (s.access (.write off size v)).response = some ⟨.ok, none⟩)

/-- R55: a read of written cells that is no race returns the bytes little-endian, zero-extended, and changes nothing
of the block. -/
def Obligations.MessageReadIsLittleEndian : Prop :=
  ∀ (s : State) (off : Offset) (size : Size) (a : Nat) (bytes : List Byte),
    off.toNat = 0x100000 + a → off.toNat % size.bytes = 0 → a + size.bytes ≤ s.cap →
    bytes.length = size.bytes → (∀ j, j < size.bytes → s.mbuf.read (a + j) = bytes[j]?) →
    ¬ s.races false a size.bytes →
    s.access (.read off size) =
      { s with response := some ⟨.ok, some (BitVec.ofNat 32 (Nat.ofDigits 256 (bytes.map BitVec.toNat)))⟩ }

/-- R56: a write that is no race puts the bytes v[8j+7:8j] in the cells a + j, ignores the bits of v above, and
changes no other cell and nothing else of the block. -/
def Obligations.MessageWriteIsLittleEndian : Prop :=
  ∀ (s : State) (off : Offset) (size : Size) (a : Nat) (v : Word),
    off.toNat = 0x100000 + a → off.toNat % size.bytes = 0 → a + size.bytes ≤ s.cap →
    ¬ s.races true a size.bytes →
    ∃ m : Memory, s.access (.write off size v) = { s with mbuf := m, response := some ⟨.ok, none⟩ } ∧
      (∀ j, j < size.bytes → m.read (a + j) = some (v.extractLsb' (8 * j) 8)) ∧
      (∀ x, x < a ∨ a + size.bytes ≤ x → m.read x = s.mbuf.read x)

/-- What a store that is no race writes is what a load of the same cells then reads, with or without a command in
flight (R55, R56, R60, R241). -/
def Obligations.StoreThenLoadReturnsValue : Prop :=
  ∀ (s : State) (off : Offset) (size : Size) (a : Nat) (v : Word),
    off.toNat = 0x100000 + a → off.toNat % size.bytes = 0 → a + size.bytes ≤ s.cap →
    ¬ s.races true a size.bytes →
    ((s.access (.write off size v)).access (.read off size)).response =
      some ⟨.ok, some (BitVec.ofNat 32 (v.toNat % 2 ^ (8 * size.bytes)))⟩

/-- R58: a host read that covers an UNINIT cell and is no race records UninitRead and returns a free value of the
access's width (log entry 6); nothing else of the block changes. -/
def Obligations.UninitHostReadRecordsFault : Prop :=
  ∀ (s : State) (off : Offset) (size : Size) (a : Nat),
    off.toNat = 0x100000 + a → off.toNat % size.bytes = 0 → a + size.bytes ≤ s.cap →
    ¬ s.races false a size.bytes → (∃ j, j < size.bytes ∧ s.mbuf.read (a + j) = none) →
    s.access (.read off size) =
      { s with
        faults := { s.faults with uninitRead := true }
        draws := s.draws + 1
        response := some ⟨.ok, some (((Config.freeWord s.draws).setWidth (8 * size.bytes)).setWidth 32)⟩ }

/-- R240: an access of the message window records MsgRace exactly when it races: it touches the span of the command
in flight and it writes or the command is REFLECT. Any command has a span here (log entry 8). -/
def Obligations.RaceRecordsMsgRace : Prop :=
  ∀ (s : State) (off : Offset) (size : Size) (a : Nat) (v : Word),
    off.toNat = 0x100000 + a → off.toNat % size.bytes = 0 → a + size.bytes ≤ s.cap →
    (s.races true a size.bytes → (s.access (.write off size v)).faults.msgRace = true) ∧
    (s.races false a size.bytes → (s.access (.read off size)).faults.msgRace = true) ∧
    (¬ s.races true a size.bytes → (s.access (.write off size v)).faults = s.faults) ∧
    (¬ s.races false a size.bytes → (s.access (.read off size)).faults.msgRace = s.faults.msgRace)

/-- The frame of any access of the message window, racing or not: every register, flag, CAP, IMPL, the program and the
schedule are unchanged, the snapshot but for its race mark, and every cell that is neither in the span of a racing
command nor written (R55, R56, R240; log entry 8). -/
def Obligations.MessageAccessFrame : Prop :=
  ∀ (s t : State) (off : Offset) (size : Size) (a : Nat) (v : Word) (isWrite : Bool),
    off.toNat = 0x100000 + a →
    t = s.access (if isWrite then .write off size v else .read off size) →
    t.cmd = s.cmd ∧ t.done = s.done ∧ t.ovr = s.ovr ∧ t.err = s.err ∧ s.sameOperandRegisters t ∧
    t.result = s.result ∧ t.resultUnseen = s.resultUnseen ∧ t.cap = s.cap ∧ t.impl = s.impl ∧ t.program = s.program ∧ t.schedule = s.schedule ∧
    t.snapshot.map (fun S => { S with raced := false }) = s.snapshot.map (fun S => { S with raced := false }) ∧
    (∀ x, (isWrite = true → x < a ∨ a + size.bytes ≤ x) →
      (∀ S, s.snapshot = some S → s.races isWrite a size.bytes → S.inSpan x = false) →
      t.mbuf.read x = s.mbuf.read x)

/-- R60: a host read that is no race changes no register, no flag, no cell and no command in flight; it may draw a free
value, record UninitRead, and show the host a completion (log entries 5 and 18). -/
def Obligations.ReadsHaveNoSideEffects : Prop :=
  ∀ (s : State) (off : Offset) (size : Size),
    (∀ a, off.toNat = 0x100000 + a → ¬ s.races false a size.bytes) →
    ∃ (k : Nat) (u z : Bool) (r : Option Response), s.access (.read off size) =
      { s with draws := k, faults := { s.faults with uninitRead := u }, resultUnseen := z, response := r }

/-! ### Reset -/

/-- R230, R232 and R39: a warm reset clears every register, discards the command in flight, and leaves MBUF as it is,
but for the span of a REFLECT in flight, whose cells become UNINIT; CAP and the model faults stay. That it also keeps the
host's program, the rest of the schedule, the response and the count of free values is the model's choice (log
entry 16), and that RESULT can be read at once, as 0, is log entry 18. -/
def Obligations.WarmResetClearsRegisters : Prop :=
  ∀ (s : State) (ts : List Turn), s.schedule = .warmReset :: ts →
    ∃ m : Memory, step s = .next
      { s with
        cmd := 0, done := false, ovr := false, err := .none, poly := 0, init := 0, gen := 0, key := 0, data := 0,
        bits := 0, msgBase := 0, msgLen := 0, result := 0, snapshot := none, mbuf := m, resultUnseen := false,
        schedule := ts } ∧
      ∀ a, m.read a = match s.snapshot with
        | none => s.mbuf.read a
        | some S => if decode S.cmd = .ok .reflect ∧ S.inSpan a = true then none else s.mbuf.read a

/-- R39 and R231: after power-on every register reads 0 but CAP, which reads MSG_CAP within 1 .. 2^20; no command is in
flight, every cell is UNINIT and there is no model fault. -/
def Obligations.PowerOnState : Prop :=
  (∀ off : Offset, off ∈ [0x000, 0x004, 0x008, 0x00C, 0x010, 0x014, 0x018, 0x01C, 0x020, 0x024, 0x028] →
    (State.reset.access (.read off .word)).response = some ⟨.ok, some 0⟩) ∧
  (State.reset.access (.read 0x02C .word)).response = some ⟨.ok, some (BitVec.ofNat 32 Config.msgCap)⟩ ∧
  1 ≤ Config.msgCap ∧ Config.msgCap ≤ 2 ^ 20 ∧
  State.reset.snapshot = none ∧ (∀ a, State.reset.mbuf.read a = none) ∧ State.reset.noModelFault

/-! ### Steps and runs -/

/-- R205: when the engine moves and the word in the snapshot decodes to `i`, the step is the completion of `i`, on the
state whose schedule has given the turn away. That with no schedule left a command in flight completes at once is the
model's choice (log entry 2). -/
def Obligations.StepRunsTheDecodedCommand : Prop :=
  ∀ (s : State) (S : Snapshot) (i : Instr), s.snapshot = some S → decode S.cmd = .ok i →
    (∀ ts, s.schedule = .engine :: ts → step s = exec i { s with schedule := ts }) ∧
    (s.schedule = [] → step s = exec i s)

/-- R66, R88: when the host moves, the step is the next access of its program; `wait` is a read of STATUS, after which
the program goes on exactly if the value read has BUSY = 0 (log entry 13). A read that returns BUSY = 0
shows the completion, after which RESULT can be read (R69, log entry 18). The host moves when the schedule says so, and
when the schedule is used up and nothing is in flight (log entry 2). That a host with an empty program leaves the state
as it is when it moves is the model's choice (log entry 3). -/
def Obligations.HostTurnPerformsTheNextAccess : Prop :=
  ∀ (s : State) (ts : List Turn) (ops : List HostOp),
    (s.schedule = .host :: ts ∨ (s.schedule = [] ∧ ts = [] ∧ s.snapshot = none)) →
    (∀ a, s.program = .access a :: ops →
      step s = .next ({ s with schedule := ts, program := ops }.access a)) ∧
    (s.program = .wait :: ops →
      step s = .next { s with
        schedule := ts
        program := if s.busy then .wait :: ops else ops
        response := some ⟨.ok, some s.statusWord⟩
        resultUnseen := s.resultUnseen && s.busy }) ∧
    (s.program = [] → step s = .next { s with schedule := ts })

/-- The invariant holds after power-on. -/
def Obligations.InvariantAtPowerOn : Prop := State.reset.Inv

/-- Every step keeps the invariant: MSG_CAP in range, MBUF canonical and inside MSG_CAP, the command in flight
validated, DONE and ERR quiet while BUSY, DONE never together with an error. -/
def Obligations.StepKeepsTheInvariant : Prop := ∀ s t : State, s.Inv → step s = .next t → t.Inv

/-- R206 and the treatments of 93_implementation_defined.md ("No behaviour of this block is `stuck`"): from a state that
meets the invariant no step faults or is refused. -/
def Obligations.StepNeverStops : Prop := ∀ s : State, s.Inv → ∃ t, step s = .next t

/-- R37, R9 and R22: no step removes a model fault, and no step changes MSG_CAP or IMPL. -/
def Obligations.FaultsStickAndCapacityStays : Prop :=
  ∀ s t : State, step s = .next t →
    (s.faults.uninitRead = true → t.faults.uninitRead = true) ∧
    (s.faults.msgRace = true → t.faults.msgRace = true) ∧ t.cap = s.cap ∧ t.impl = s.impl

/-- R37: a run from a state with a model fault never ends, after any number of steps. That an end is looked for after any
number of steps, and not only at the first, is the model's choice (log entry 19). -/
def Obligations.FaultedRunsNeverEnd : Prop :=
  ∀ (k : Nat) (s t : State), ¬ s.noModelFault → ¬ EndsIn k s t

/-- R31: a step changes RESULT only by completing a command other than REFLECT, or by a reset. -/
def Obligations.ResultChangesOnlyAtCompletionOrReset : Prop :=
  ∀ s t : State, step s = .next t → t.result ≠ s.result →
    s.schedule.headD s.dueTurn = .warmReset ∨
    (s.schedule.headD s.dueTurn = .engine ∧
      ∃ S i, s.snapshot = some S ∧ decode S.cmd = .ok i ∧ i ≠ .reflect ∧ t.done = true)

/-- R246: the polling loop terminates. Whatever the schedule, a host at `wait` gets past it, with no command in
flight and RESULT no longer unspecified (R69), within the turns scheduled plus two. The bound is the model's: once the schedule is used up, a command in flight
completes before the host moves (log entry 2), and a scheduled reset leaves the host at `wait` (log entry 16). -/
def Obligations.PollingTerminates : Prop :=
  ∀ (s : State) (ops : List HostOp), s.Inv → s.program = .wait :: ops →
    ∃ k t, k ≤ s.schedule.length + 2 ∧ runSteps k s = .next t ∧ t.program = ops ∧ t.busy = false ∧
      t.resultUnseen = false

/-! ### Host assembly -/

/-- R87: the access of each statement, for message addresses that have an offset (log entry 15). -/
def Obligations.HostStatementsAreTheirAccesses : Prop :=
  (∀ a : Nat, a < 2 ^ 20 → (msgOffset a).toNat = 0x100000 + a) ∧
  (∀ (r : Reg) (v : Word), (HostStmt.wr r v).ops = [.access (.write r.offset .word v)]) ∧
  (∀ r : Reg, (HostStmt.rd r).ops = [.access (.read r.offset .word)]) ∧
  (∀ (a : Nat) (b : BitVec 8), (HostStmt.sb a b).ops = [.access (.write (msgOffset a) .byte (b.setWidth 32))]) ∧
  (∀ (a : Nat) (h : BitVec 16), (HostStmt.sh a h).ops = [.access (.write (msgOffset a) .half (h.setWidth 32))]) ∧
  (∀ (a : Nat) (v : Word), (HostStmt.sw a v).ops = [.access (.write (msgOffset a) .word v)]) ∧
  (∀ a : Nat, (HostStmt.lb a).ops = [.access (.read (msgOffset a) .byte)] ∧
    (HostStmt.lh a).ops = [.access (.read (msgOffset a) .half)] ∧
    (HostStmt.lw a).ops = [.access (.read (msgOffset a) .word)]) ∧
  (∀ i : Instr, (HostStmt.issue i).ops = [.access (.write 0x000 .word (encode i))]) ∧
  [Reg.cmd, .status, .poly, .init, .gen, .key, .data, .bits, .msgBase, .msgLen, .result, .cap].map Reg.offset =
    [0x000, 0x004, 0x008, 0x00C, 0x010, 0x014, 0x018, 0x01C, 0x020, 0x024, 0x028, 0x02C]

/-- R88: the expansions of `clr`, `run` and `call`, and that `wait` is the host's polling loop. -/
def Obligations.PseudoStatementsExpand : Prop :=
  HostStmt.wait.ops = [.wait] ∧ HostStmt.clr.ops = (HostStmt.wr .status 0x0000000E).ops ∧
  (∀ i : Instr, (HostStmt.run i).ops = assemble [.issue i, .wait]) ∧
  (∀ x : Word, (HostStmt.call (.reverse8 x)).ops = assemble [.wr .data x, .run .rev8, .rd .result]) ∧
  (∀ base n : Word, (HostStmt.call (.reflectBytes base n)).ops =
    assemble [.wr .msgBase base, .wr .msgLen n, .run .reflect, .rd .status]) ∧
  (∀ (f : CrcFunction) (i : Instr) (base n poly init : Word),
    (f, i) ∈ [(.crc4, .crc4), (.crc7, .crc7), (.crc8, .crc8), (.crc16, .crc16), (.crc8le, .crc8le),
      (.crc16lsb, .crc16lsb)] →
    (HostStmt.call (.crc f base n poly init)).ops =
      assemble [.wr .poly poly, .wr .init init, .wr .msgBase base, .wr .msgLen n, .run i, .rd .status, .rd .result]) ∧
  (∀ base n gen key : Word, (HostStmt.call (.lfsrDigest8 base n gen key)).ops =
    assemble [.wr .gen gen, .wr .key key, .wr .msgBase base, .wr .msgLen n, .run .lfsr8, .rd .status, .rd .result]) ∧
  (∀ data bits gen key : Word, (HostStmt.call (.lfsrDigest16 data bits gen key)).ops =
    assemble [.wr .data data, .wr .bits bits, .wr .gen gen, .wr .key key, .run .lfsr16, .rd .status, .rd .result]) ∧
  (∀ x : Word, (HostStmt.call (.parity8 x)).ops = assemble [.wr .data x, .run .parity8, .rd .result]) ∧
  (∀ base n : Word,
    (HostStmt.call (.parityBytes base n)).ops =
      assemble [.wr .msgBase base, .wr .msgLen n, .run .parityb, .rd .status, .rd .result] ∧
    (HostStmt.call (.xorBytes base n)).ops =
      assemble [.wr .msgBase base, .wr .msgLen n, .run .xorb, .rd .status, .rd .result] ∧
    (HostStmt.call (.addBytes base n)).ops =
      assemble [.wr .msgBase base, .wr .msgLen n, .run .addb, .rd .status, .rd .result])
end

