-- ==== Sys2Proof/Laws/Memory.lean ====
section
/-! SUPPORT. MBUF: reading after writing, the canonical form and the bound MSG_CAP under every memory operation. -/

namespace Sys2Proof.Machine

/-! ### Reading after an operation -/

@[simp] theorem Memory.read_nil (a : Nat) : Memory.read [] a = none := rfl

theorem Memory.read_write (m : Memory) (a x : Nat) (v : Byte) :
    (m.write a v).read x = if x = a then some v else m.read x := by
  induction m with
  | nil => simp [Memory.write, Memory.read, eq_comm (a := a)]
  | cons c m ih =>
    obtain ⟨k, b⟩ := c
    simp only [Memory.write]
    split
    · simp [Memory.read, eq_comm (a := a)]
    · split
      · rename_i h
        subst h
        simp only [Memory.read, eq_comm (a := a)]
        split <;> rfl
      · rename_i _ hne
        simp only [Memory.read, ih]
        by_cases h : k = x
        · subst h
          simp [Ne.symm hne]
        · simp [h]

@[simp] theorem Memory.read_write_self (m : Memory) (a : Nat) (v : Byte) : (m.write a v).read a = some v := by
  simp [Memory.read_write]

theorem Memory.read_write_other (m : Memory) {a x : Nat} (v : Byte) (h : x ≠ a) :
    (m.write a v).read x = m.read x := by
  simp [Memory.read_write, h]

/-- What a little-endian write leaves in every cell. -/
theorem Memory.read_writeLE (n : Nat) : ∀ (m : Memory) (a x : Nat) (v : Word),
    (m.writeLE a n v).read x =
      if a ≤ x ∧ x < a + n then some ((v >>> (8 * (x - a))).setWidth 8) else m.read x := by
  induction n with
  | zero => intro m a x v; rw [if_neg (by omega)]; rfl
  | succ n ih =>
    intro m a x v
    rw [Memory.writeLE, ih, Memory.read_write]
    by_cases hx : x = a
    · subst hx
      simp
    · by_cases hin : a + 1 ≤ x ∧ x < a + 1 + n
      · rw [if_pos hin, if_pos (by omega), ← BitVec.shiftRight_add,
          show 8 + 8 * (x - (a + 1)) = 8 * (x - a) by omega]
      · rw [if_neg hin, if_neg hx, if_neg (by omega)]

theorem Memory.read_forgetSpan (m : Memory) (S : Snapshot) (x : Nat) :
    (m.forgetSpan S).read x = if S.inSpan x then none else m.read x := by
  induction m with
  | nil => simp [Memory.forgetSpan]
  | cons c m ih =>
    obtain ⟨k, b⟩ := c
    simp only [Memory.forgetSpan] at ih
    by_cases hk : S.inSpan k = true <;> by_cases hx : k = x
    · subst hx; simp_all [Memory.forgetSpan]
    · simp_all [Memory.forgetSpan, Memory.read]
    · subst hx; simp_all [Memory.forgetSpan, Memory.read]
    · simp_all [Memory.forgetSpan, Memory.read]

theorem Memory.read_scrambleSpan (m : Memory) (S : Snapshot) (k x : Nat) :
    (m.scrambleSpan S k).read x =
      if S.inSpan x then (m.read x).map (fun _ => Config.freeByte (k + (x - S.base.toNat))) else m.read x := by
  induction m with
  | nil => simp [Memory.scrambleSpan]
  | cons c m ih =>
    obtain ⟨j, b⟩ := c
    simp only [Memory.scrambleSpan, List.map_cons] at ih ⊢
    by_cases hj : S.inSpan j = true <;> by_cases hx : j = x
    · subst hx; simp_all [Memory.read]
    · simp_all [Memory.read]
    · subst hx; simp_all [Memory.read]
    · simp_all [Memory.read]

/-- What the loop of REFLECT leaves in every cell (R104). -/
theorem read_reflectCells (n : Nat) : ∀ (m : Memory) (a k x : Nat),
    (reflectCells m a k n).read x =
      if a ≤ x ∧ x < a + n then some (rev8 ((m.read x).getD (Config.freeByte (k + (x - a))))) else m.read x := by
  induction n with
  | zero => intro m a k x; rw [if_neg (by omega)]; rfl
  | succ n ih =>
    intro m a k x
    rw [reflectCells, ih]
    by_cases hx : x = a
    · subst hx
      simp
    · rw [Memory.read_write_other _ _ hx]
      by_cases hin : a + 1 ≤ x ∧ x < a + 1 + n
      · rw [if_pos hin, if_pos (by omega), show k + 1 + (x - (a + 1)) = k + (x - a) by omega]
      · rw [if_neg hin, if_neg (by omega)]

/-! ### The cells of a span -/

theorem Memory.cells_length (m : Memory) (n : Nat) : ∀ a, (m.cells a n).length = n := by
  induction n with
  | zero => intro a; rfl
  | succ n ih => intro a; simp [Memory.cells, ih]

theorem Memory.cells_getElem? (m : Memory) (n : Nat) : ∀ (a k : Nat), k < n →
    (m.cells a n)[k]? = some (m.read (a + k)) := by
  induction n with
  | zero => intro a k h; omega
  | succ n ih =>
    intro a k h
    cases k with
    | zero => simp [Memory.cells]
    | succ k =>
      simp only [Memory.cells, List.getElem?_cons_succ]
      rw [ih (a + 1) k (by omega), show a + 1 + k = a + (k + 1) by omega]

/-- Cells that read the same are the same list. -/
theorem Memory.cells_congr {m m' : Memory} (n : Nat) : ∀ a, (∀ x, a ≤ x → x < a + n → m.read x = m'.read x) →
    m.cells a n = m'.cells a n := by
  induction n with
  | zero => intro a _; rfl
  | succ n ih =>
    intro a h
    simp only [Memory.cells]
    rw [h a (by omega) (by omega), ih (a + 1) fun x h1 h2 => h x (by omega) (by omega)]

/-! ### The canonical form -/

theorem Memory.mem_write {m : Memory} {a : Nat} {v : Byte} {c : Host.Cell} (h : c ∈ m.write a v) :
    c = (a, v) ∨ c ∈ m := by
  induction m with
  | nil => simpa [Memory.write] using h
  | cons d m ih =>
    obtain ⟨k, b⟩ := d
    simp only [Memory.write] at h
    split at h
    · simpa using h
    · split at h
      · rcases List.mem_cons.1 h with h | h
        · exact .inl h
        · exact .inr (List.mem_cons_of_mem _ h)
      · rcases List.mem_cons.1 h with h | h
        · exact .inr (h ▸ List.mem_cons_self)
        · exact (ih h).imp id (List.mem_cons_of_mem _)

theorem Memory.write_wf {m : Memory} (h : m.wf) (a : Nat) (v : Byte) : (m.write a v).wf := by
  induction m with
  | nil => simp [Memory.write, Memory.wf]
  | cons d m ih =>
    obtain ⟨k, b⟩ := d
    obtain ⟨hk, hm⟩ := List.pairwise_cons.1 h
    simp only [Memory.write]
    split
    · rename_i hak
      refine List.pairwise_cons.2 ⟨fun c hc => ?_, h⟩
      rcases List.mem_cons.1 hc with rfl | hc
      · exact hak
      · exact lt_trans hak (hk c hc)
    · split
      · rename_i hak
        subst hak
        exact List.pairwise_cons.2 ⟨hk, hm⟩
      · rename_i hlt hne
        refine List.pairwise_cons.2 ⟨fun c hc => ?_, ih hm⟩
        rcases Memory.mem_write hc with rfl | hc
        · exact lt_of_le_of_ne (not_lt.1 hlt) (Ne.symm hne)
        · exact hk c hc

theorem Memory.write_within {m : Memory} {cap a : Nat} (h : m.within cap) (ha : a < cap) (v : Byte) :
    (m.write a v).within cap := by
  intro c hc
  rcases Memory.mem_write hc with rfl | hc
  · exact ha
  · exact h c hc

theorem Memory.writeLE_wf (n : Nat) : ∀ {m : Memory} (_ : m.wf) (a : Nat) (v : Word), (m.writeLE a n v).wf := by
  induction n with
  | zero => exact fun h _ _ => h
  | succ n ih => exact fun h a v => ih (Memory.write_wf h a _) _ _

theorem Memory.writeLE_within (n : Nat) : ∀ {m : Memory} {cap : Nat} (_ : m.within cap) (a : Nat) (v : Word),
    a + n ≤ cap → (m.writeLE a n v).within cap := by
  induction n with
  | zero => exact fun h _ _ _ => h
  | succ n ih => exact fun h a v hn => ih (Memory.write_within h (by omega) _) _ _ (by omega)

theorem Memory.forgetSpan_wf {m : Memory} (h : m.wf) (S : Snapshot) : (m.forgetSpan S).wf := h.filter _

theorem Memory.forgetSpan_within {m : Memory} {cap : Nat} (h : m.within cap) (S : Snapshot) :
    (m.forgetSpan S).within cap := fun c hc => h c (List.mem_filter.1 hc).1

/-- A race changes the contents of cells, never which cells are written. -/
theorem Memory.scrambleSpan_addresses (m : Memory) (S : Snapshot) (k : Nat) :
    (m.scrambleSpan S k).map Prod.fst = m.map Prod.fst := by
  rw [Memory.scrambleSpan, List.map_map]
  refine List.map_congr_left fun c _ => ?_
  simp only [Function.comp]
  split <;> rfl

theorem Memory.wf_iff_addresses (m : Memory) : m.wf ↔ (m.map Prod.fst).Pairwise (· < ·) :=
  (List.pairwise_map (f := Prod.fst) (R := (· < ·))).symm

theorem Memory.scrambleSpan_wf {m : Memory} (h : m.wf) (S : Snapshot) (k : Nat) : (m.scrambleSpan S k).wf := by
  rw [Memory.wf_iff_addresses, Memory.scrambleSpan_addresses, ← Memory.wf_iff_addresses]
  exact h

theorem Memory.within_iff_addresses (m : Memory) (cap : Nat) : m.within cap ↔ ∀ a ∈ m.map Prod.fst, a < cap := by
  simp [Memory.within]

theorem Memory.scrambleSpan_within {m : Memory} {cap : Nat} (h : m.within cap) (S : Snapshot) (k : Nat) :
    (m.scrambleSpan S k).within cap := by
  rw [Memory.within_iff_addresses, Memory.scrambleSpan_addresses, ← Memory.within_iff_addresses]
  exact h

theorem reflectCells_wf (n : Nat) : ∀ {m : Memory} (_ : m.wf) (a k : Nat), (reflectCells m a k n).wf := by
  induction n with
  | zero => exact fun h _ _ => h
  | succ n ih => exact fun h a k => ih (Memory.write_wf h a _) _ _

theorem reflectCells_within (n : Nat) : ∀ {m : Memory} {cap : Nat} (_ : m.within cap) (a k : Nat),
    a + n ≤ cap → (reflectCells m a k n).within cap := by
  induction n with
  | zero => exact fun h _ _ _ => h
  | succ n ih => exact fun h a k hn => ih (Memory.write_within h (by omega) _) _ _ (by omega)

theorem State.mbufAfterReset_wf {s : State} (h : s.mbuf.wf) : s.mbufAfterReset.wf := by
  simp only [State.mbufAfterReset]
  split
  · split
    · exact Memory.forgetSpan_wf h _
    · exact h
  · exact h

theorem State.mbufAfterReset_within {s : State} {cap : Nat} (h : s.mbuf.within cap) :
    s.mbufAfterReset.within cap := by
  simp only [State.mbufAfterReset]
  split
  · split
    · exact Memory.forgetSpan_within h _
    · exact h
  · exact h

/-- Power-on: MBUF is in its canonical form. -/
theorem reset_memory_wf : State.reset.mbuf.wf := List.Pairwise.nil

/-! ### UNINIT cells -/

/-- A message all of whose cells are written. -/
theorem zeroFill_written (msg : List Byte) : zeroFill (msg.map some) = msg := by
  simp [zeroFill, Function.comp_def]

theorem hasUninit_written (msg : List Byte) : hasUninit (msg.map some) = false := by
  simp [hasUninit]

theorem probes_written (msg : List Byte) : probes (msg.map some) = [] := by
  induction msg with
  | nil => rfl
  | cons b msg ih => simp [probes, ih]

theorem dependsOnUninit_written {w : Nat} (f : List Byte → BitVec w) (msg : List Byte) :
    dependsOnUninit f (msg.map some) = false := by
  simp [dependsOnUninit, probes_written]

theorem dependsOnUninit_nil {w : Nat} (f : List Byte → BitVec w) : dependsOnUninit f [] = false := rfl

end Sys2Proof.Machine
end

