-- ==== Sys2Proof/Laws/State.lean ====
section
/-! SUPPORT. What each named update of the state does to each field: one lemma a field, true by rfl. -/

namespace Sys2Proof.Machine

variable (s : State)

/-! ### recordUninit -/

@[simp] theorem State.recordUninit_cmd (b : Bool) : (s.recordUninit b).cmd = s.cmd := rfl
@[simp] theorem State.recordUninit_done (b : Bool) : (s.recordUninit b).done = s.done := rfl
@[simp] theorem State.recordUninit_ovr (b : Bool) : (s.recordUninit b).ovr = s.ovr := rfl
@[simp] theorem State.recordUninit_err (b : Bool) : (s.recordUninit b).err = s.err := rfl
@[simp] theorem State.recordUninit_poly (b : Bool) : (s.recordUninit b).poly = s.poly := rfl
@[simp] theorem State.recordUninit_init (b : Bool) : (s.recordUninit b).init = s.init := rfl
@[simp] theorem State.recordUninit_gen (b : Bool) : (s.recordUninit b).gen = s.gen := rfl
@[simp] theorem State.recordUninit_key (b : Bool) : (s.recordUninit b).key = s.key := rfl
@[simp] theorem State.recordUninit_data (b : Bool) : (s.recordUninit b).data = s.data := rfl
@[simp] theorem State.recordUninit_bits (b : Bool) : (s.recordUninit b).bits = s.bits := rfl
@[simp] theorem State.recordUninit_msgBase (b : Bool) : (s.recordUninit b).msgBase = s.msgBase := rfl
@[simp] theorem State.recordUninit_msgLen (b : Bool) : (s.recordUninit b).msgLen = s.msgLen := rfl
@[simp] theorem State.recordUninit_result (b : Bool) : (s.recordUninit b).result = s.result := rfl
@[simp] theorem State.recordUninit_cap (b : Bool) : (s.recordUninit b).cap = s.cap := rfl
@[simp] theorem State.recordUninit_impl (b : Bool) : (s.recordUninit b).impl = s.impl := rfl
@[simp] theorem State.recordUninit_mbuf (b : Bool) : (s.recordUninit b).mbuf = s.mbuf := rfl
@[simp] theorem State.recordUninit_snapshot (b : Bool) : (s.recordUninit b).snapshot = s.snapshot := rfl
@[simp] theorem State.recordUninit_faults (b : Bool) :
    (s.recordUninit b).faults =
      { s.faults with uninitRead := s.faults.uninitRead || b } := rfl
@[simp] theorem State.recordUninit_response (b : Bool) : (s.recordUninit b).response = s.response := rfl
@[simp] theorem State.recordUninit_resultUnseen (b : Bool) : (s.recordUninit b).resultUnseen = s.resultUnseen := rfl
@[simp] theorem State.recordUninit_draws (b : Bool) : (s.recordUninit b).draws = s.draws := rfl
@[simp] theorem State.recordUninit_program (b : Bool) : (s.recordUninit b).program = s.program := rfl
@[simp] theorem State.recordUninit_schedule (b : Bool) : (s.recordUninit b).schedule = s.schedule := rfl

/-! ### recordRace -/

@[simp] theorem State.recordRace_cmd (S : Snapshot) : (s.recordRace S).cmd = s.cmd := rfl
@[simp] theorem State.recordRace_done (S : Snapshot) : (s.recordRace S).done = s.done := rfl
@[simp] theorem State.recordRace_ovr (S : Snapshot) : (s.recordRace S).ovr = s.ovr := rfl
@[simp] theorem State.recordRace_err (S : Snapshot) : (s.recordRace S).err = s.err := rfl
@[simp] theorem State.recordRace_poly (S : Snapshot) : (s.recordRace S).poly = s.poly := rfl
@[simp] theorem State.recordRace_init (S : Snapshot) : (s.recordRace S).init = s.init := rfl
@[simp] theorem State.recordRace_gen (S : Snapshot) : (s.recordRace S).gen = s.gen := rfl
@[simp] theorem State.recordRace_key (S : Snapshot) : (s.recordRace S).key = s.key := rfl
@[simp] theorem State.recordRace_data (S : Snapshot) : (s.recordRace S).data = s.data := rfl
@[simp] theorem State.recordRace_bits (S : Snapshot) : (s.recordRace S).bits = s.bits := rfl
@[simp] theorem State.recordRace_msgBase (S : Snapshot) : (s.recordRace S).msgBase = s.msgBase := rfl
@[simp] theorem State.recordRace_msgLen (S : Snapshot) : (s.recordRace S).msgLen = s.msgLen := rfl
@[simp] theorem State.recordRace_result (S : Snapshot) : (s.recordRace S).result = s.result := rfl
@[simp] theorem State.recordRace_cap (S : Snapshot) : (s.recordRace S).cap = s.cap := rfl
@[simp] theorem State.recordRace_impl (S : Snapshot) : (s.recordRace S).impl = s.impl := rfl
@[simp] theorem State.recordRace_mbuf (S : Snapshot) :
    (s.recordRace S).mbuf =
      s.mbuf.scrambleSpan S s.draws := rfl
@[simp] theorem State.recordRace_snapshot (S : Snapshot) :
    (s.recordRace S).snapshot =
      some { S with raced := true } := rfl
@[simp] theorem State.recordRace_faults (S : Snapshot) :
    (s.recordRace S).faults =
      { s.faults with msgRace := true } := rfl
@[simp] theorem State.recordRace_response (S : Snapshot) : (s.recordRace S).response = s.response := rfl
@[simp] theorem State.recordRace_resultUnseen (S : Snapshot) : (s.recordRace S).resultUnseen = s.resultUnseen := rfl
@[simp] theorem State.recordRace_draws (S : Snapshot) : (s.recordRace S).draws = s.draws + S.len.toNat := rfl
@[simp] theorem State.recordRace_program (S : Snapshot) : (s.recordRace S).program = s.program := rfl
@[simp] theorem State.recordRace_schedule (S : Snapshot) : (s.recordRace S).schedule = s.schedule := rfl

/-! ### respond -/

@[simp] theorem State.respond_cmd (r : BusResp) (d : Option Word) : (s.respond r d).cmd = s.cmd := rfl
@[simp] theorem State.respond_done (r : BusResp) (d : Option Word) : (s.respond r d).done = s.done := rfl
@[simp] theorem State.respond_ovr (r : BusResp) (d : Option Word) : (s.respond r d).ovr = s.ovr := rfl
@[simp] theorem State.respond_err (r : BusResp) (d : Option Word) : (s.respond r d).err = s.err := rfl
@[simp] theorem State.respond_poly (r : BusResp) (d : Option Word) : (s.respond r d).poly = s.poly := rfl
@[simp] theorem State.respond_init (r : BusResp) (d : Option Word) : (s.respond r d).init = s.init := rfl
@[simp] theorem State.respond_gen (r : BusResp) (d : Option Word) : (s.respond r d).gen = s.gen := rfl
@[simp] theorem State.respond_key (r : BusResp) (d : Option Word) : (s.respond r d).key = s.key := rfl
@[simp] theorem State.respond_data (r : BusResp) (d : Option Word) : (s.respond r d).data = s.data := rfl
@[simp] theorem State.respond_bits (r : BusResp) (d : Option Word) : (s.respond r d).bits = s.bits := rfl
@[simp] theorem State.respond_msgBase (r : BusResp) (d : Option Word) :
    (s.respond r d).msgBase =
      s.msgBase := rfl
@[simp] theorem State.respond_msgLen (r : BusResp) (d : Option Word) :
    (s.respond r d).msgLen =
      s.msgLen := rfl
@[simp] theorem State.respond_result (r : BusResp) (d : Option Word) :
    (s.respond r d).result =
      s.result := rfl
@[simp] theorem State.respond_cap (r : BusResp) (d : Option Word) : (s.respond r d).cap = s.cap := rfl
@[simp] theorem State.respond_impl (r : BusResp) (d : Option Word) : (s.respond r d).impl = s.impl := rfl
@[simp] theorem State.respond_mbuf (r : BusResp) (d : Option Word) : (s.respond r d).mbuf = s.mbuf := rfl
@[simp] theorem State.respond_snapshot (r : BusResp) (d : Option Word) :
    (s.respond r d).snapshot =
      s.snapshot := rfl
@[simp] theorem State.respond_faults (r : BusResp) (d : Option Word) :
    (s.respond r d).faults =
      s.faults := rfl
@[simp] theorem State.respond_response (r : BusResp) (d : Option Word) :
    (s.respond r d).response =
      some { resp := r, data := d } := rfl
@[simp] theorem State.respond_resultUnseen (r : BusResp) (d : Option Word) :
    (s.respond r d).resultUnseen = s.resultUnseen := rfl
@[simp] theorem State.respond_draws (r : BusResp) (d : Option Word) : (s.respond r d).draws = s.draws := rfl
@[simp] theorem State.respond_program (r : BusResp) (d : Option Word) :
    (s.respond r d).program =
      s.program := rfl
@[simp] theorem State.respond_schedule (r : BusResp) (d : Option Word) :
    (s.respond r d).schedule =
      s.schedule := rfl

/-! ### acceptCommand -/

@[simp] theorem State.acceptCommand_cmd (v : Word) : (s.acceptCommand v).cmd = v := rfl
@[simp] theorem State.acceptCommand_done (v : Word) : (s.acceptCommand v).done = false := rfl
@[simp] theorem State.acceptCommand_ovr (v : Word) : (s.acceptCommand v).ovr = s.ovr := rfl
@[simp] theorem State.acceptCommand_err (v : Word) : (s.acceptCommand v).err = ErrCode.none := rfl
@[simp] theorem State.acceptCommand_poly (v : Word) : (s.acceptCommand v).poly = s.poly := rfl
@[simp] theorem State.acceptCommand_init (v : Word) : (s.acceptCommand v).init = s.init := rfl
@[simp] theorem State.acceptCommand_gen (v : Word) : (s.acceptCommand v).gen = s.gen := rfl
@[simp] theorem State.acceptCommand_key (v : Word) : (s.acceptCommand v).key = s.key := rfl
@[simp] theorem State.acceptCommand_data (v : Word) : (s.acceptCommand v).data = s.data := rfl
@[simp] theorem State.acceptCommand_bits (v : Word) : (s.acceptCommand v).bits = s.bits := rfl
@[simp] theorem State.acceptCommand_msgBase (v : Word) : (s.acceptCommand v).msgBase = s.msgBase := rfl
@[simp] theorem State.acceptCommand_msgLen (v : Word) : (s.acceptCommand v).msgLen = s.msgLen := rfl
@[simp] theorem State.acceptCommand_result (v : Word) : (s.acceptCommand v).result = s.result := rfl
@[simp] theorem State.acceptCommand_cap (v : Word) : (s.acceptCommand v).cap = s.cap := rfl
@[simp] theorem State.acceptCommand_impl (v : Word) : (s.acceptCommand v).impl = s.impl := rfl
@[simp] theorem State.acceptCommand_mbuf (v : Word) : (s.acceptCommand v).mbuf = s.mbuf := rfl
@[simp] theorem State.acceptCommand_snapshot (v : Word) :
    (s.acceptCommand v).snapshot =
      some (s.capture v) := rfl
@[simp] theorem State.acceptCommand_faults (v : Word) : (s.acceptCommand v).faults = s.faults := rfl
@[simp] theorem State.acceptCommand_response (v : Word) : (s.acceptCommand v).response = s.response := rfl
@[simp] theorem State.acceptCommand_resultUnseen (v : Word) : (s.acceptCommand v).resultUnseen = s.resultUnseen := rfl
@[simp] theorem State.acceptCommand_draws (v : Word) : (s.acceptCommand v).draws = s.draws := rfl
@[simp] theorem State.acceptCommand_program (v : Word) : (s.acceptCommand v).program = s.program := rfl
@[simp] theorem State.acceptCommand_schedule (v : Word) : (s.acceptCommand v).schedule = s.schedule := rfl

/-! ### refuseCommand -/

@[simp] theorem State.refuseCommand_cmd (v : Word) (e : ErrCode) : (s.refuseCommand v e).cmd = v := rfl
@[simp] theorem State.refuseCommand_done (v : Word) (e : ErrCode) : (s.refuseCommand v e).done = false := rfl
@[simp] theorem State.refuseCommand_ovr (v : Word) (e : ErrCode) : (s.refuseCommand v e).ovr = s.ovr := rfl
@[simp] theorem State.refuseCommand_err (v : Word) (e : ErrCode) : (s.refuseCommand v e).err = e := rfl
@[simp] theorem State.refuseCommand_poly (v : Word) (e : ErrCode) : (s.refuseCommand v e).poly = s.poly := rfl
@[simp] theorem State.refuseCommand_init (v : Word) (e : ErrCode) : (s.refuseCommand v e).init = s.init := rfl
@[simp] theorem State.refuseCommand_gen (v : Word) (e : ErrCode) : (s.refuseCommand v e).gen = s.gen := rfl
@[simp] theorem State.refuseCommand_key (v : Word) (e : ErrCode) : (s.refuseCommand v e).key = s.key := rfl
@[simp] theorem State.refuseCommand_data (v : Word) (e : ErrCode) : (s.refuseCommand v e).data = s.data := rfl
@[simp] theorem State.refuseCommand_bits (v : Word) (e : ErrCode) : (s.refuseCommand v e).bits = s.bits := rfl
@[simp] theorem State.refuseCommand_msgBase (v : Word) (e : ErrCode) :
    (s.refuseCommand v e).msgBase =
      s.msgBase := rfl
@[simp] theorem State.refuseCommand_msgLen (v : Word) (e : ErrCode) :
    (s.refuseCommand v e).msgLen =
      s.msgLen := rfl
@[simp] theorem State.refuseCommand_result (v : Word) (e : ErrCode) :
    (s.refuseCommand v e).result =
      s.result := rfl
@[simp] theorem State.refuseCommand_cap (v : Word) (e : ErrCode) : (s.refuseCommand v e).cap = s.cap := rfl
@[simp] theorem State.refuseCommand_impl (v : Word) (e : ErrCode) : (s.refuseCommand v e).impl = s.impl := rfl
@[simp] theorem State.refuseCommand_mbuf (v : Word) (e : ErrCode) : (s.refuseCommand v e).mbuf = s.mbuf := rfl
@[simp] theorem State.refuseCommand_snapshot (v : Word) (e : ErrCode) :
    (s.refuseCommand v e).snapshot =
      s.snapshot := rfl
@[simp] theorem State.refuseCommand_faults (v : Word) (e : ErrCode) :
    (s.refuseCommand v e).faults =
      s.faults := rfl
@[simp] theorem State.refuseCommand_response (v : Word) (e : ErrCode) :
    (s.refuseCommand v e).response =
      s.response := rfl
@[simp] theorem State.refuseCommand_resultUnseen (v : Word) (e : ErrCode) :
    (s.refuseCommand v e).resultUnseen =
      s.resultUnseen := rfl
@[simp] theorem State.refuseCommand_draws (v : Word) (e : ErrCode) :
    (s.refuseCommand v e).draws =
      s.draws := rfl
@[simp] theorem State.refuseCommand_program (v : Word) (e : ErrCode) :
    (s.refuseCommand v e).program =
      s.program := rfl
@[simp] theorem State.refuseCommand_schedule (v : Word) (e : ErrCode) :
    (s.refuseCommand v e).schedule =
      s.schedule := rfl

/-! ### dropCommand -/

@[simp] theorem State.dropCommand_cmd : (s.dropCommand).cmd = s.cmd := rfl
@[simp] theorem State.dropCommand_done : (s.dropCommand).done = s.done := rfl
@[simp] theorem State.dropCommand_ovr : (s.dropCommand).ovr = true := rfl
@[simp] theorem State.dropCommand_err : (s.dropCommand).err = s.err := rfl
@[simp] theorem State.dropCommand_poly : (s.dropCommand).poly = s.poly := rfl
@[simp] theorem State.dropCommand_init : (s.dropCommand).init = s.init := rfl
@[simp] theorem State.dropCommand_gen : (s.dropCommand).gen = s.gen := rfl
@[simp] theorem State.dropCommand_key : (s.dropCommand).key = s.key := rfl
@[simp] theorem State.dropCommand_data : (s.dropCommand).data = s.data := rfl
@[simp] theorem State.dropCommand_bits : (s.dropCommand).bits = s.bits := rfl
@[simp] theorem State.dropCommand_msgBase : (s.dropCommand).msgBase = s.msgBase := rfl
@[simp] theorem State.dropCommand_msgLen : (s.dropCommand).msgLen = s.msgLen := rfl
@[simp] theorem State.dropCommand_result : (s.dropCommand).result = s.result := rfl
@[simp] theorem State.dropCommand_cap : (s.dropCommand).cap = s.cap := rfl
@[simp] theorem State.dropCommand_impl : (s.dropCommand).impl = s.impl := rfl
@[simp] theorem State.dropCommand_mbuf : (s.dropCommand).mbuf = s.mbuf := rfl
@[simp] theorem State.dropCommand_snapshot : (s.dropCommand).snapshot = s.snapshot := rfl
@[simp] theorem State.dropCommand_faults : (s.dropCommand).faults = s.faults := rfl
@[simp] theorem State.dropCommand_response : (s.dropCommand).response = s.response := rfl
@[simp] theorem State.dropCommand_resultUnseen : (s.dropCommand).resultUnseen = s.resultUnseen := rfl
@[simp] theorem State.dropCommand_draws : (s.dropCommand).draws = s.draws := rfl
@[simp] theorem State.dropCommand_program : (s.dropCommand).program = s.program := rfl
@[simp] theorem State.dropCommand_schedule : (s.dropCommand).schedule = s.schedule := rfl

/-! ### finish -/

@[simp] theorem State.finish_cmd (S : Snapshot) : (s.finish S).cmd = s.cmd := rfl
@[simp] theorem State.finish_done (S : Snapshot) : (s.finish S).done = true := rfl
@[simp] theorem State.finish_ovr (S : Snapshot) : (s.finish S).ovr = s.ovr := rfl
@[simp] theorem State.finish_err (S : Snapshot) : (s.finish S).err = s.err := rfl
@[simp] theorem State.finish_poly (S : Snapshot) : (s.finish S).poly = s.poly := rfl
@[simp] theorem State.finish_init (S : Snapshot) : (s.finish S).init = s.init := rfl
@[simp] theorem State.finish_gen (S : Snapshot) : (s.finish S).gen = s.gen := rfl
@[simp] theorem State.finish_key (S : Snapshot) : (s.finish S).key = s.key := rfl
@[simp] theorem State.finish_data (S : Snapshot) : (s.finish S).data = s.data := rfl
@[simp] theorem State.finish_bits (S : Snapshot) : (s.finish S).bits = s.bits := rfl
@[simp] theorem State.finish_msgBase (S : Snapshot) : (s.finish S).msgBase = s.msgBase := rfl
@[simp] theorem State.finish_msgLen (S : Snapshot) : (s.finish S).msgLen = s.msgLen := rfl
@[simp] theorem State.finish_result (S : Snapshot) : (s.finish S).result = s.result := rfl
@[simp] theorem State.finish_cap (S : Snapshot) : (s.finish S).cap = s.cap := rfl
@[simp] theorem State.finish_impl (S : Snapshot) : (s.finish S).impl = s.impl := rfl
@[simp] theorem State.finish_mbuf (S : Snapshot) :
    (s.finish S).mbuf =
      if S.raced then s.mbuf.scrambleSpan S s.draws else s.mbuf := rfl
@[simp] theorem State.finish_snapshot (S : Snapshot) : (s.finish S).snapshot = none := rfl
@[simp] theorem State.finish_faults (S : Snapshot) : (s.finish S).faults = s.faults := rfl
@[simp] theorem State.finish_response (S : Snapshot) : (s.finish S).response = s.response := rfl
@[simp] theorem State.finish_resultUnseen (S : Snapshot) : (s.finish S).resultUnseen = true := rfl
@[simp] theorem State.finish_draws (S : Snapshot) :
    (s.finish S).draws =
      if S.raced then s.draws + S.len.toNat else s.draws := rfl
@[simp] theorem State.finish_program (S : Snapshot) : (s.finish S).program = s.program := rfl
@[simp] theorem State.finish_schedule (S : Snapshot) : (s.finish S).schedule = s.schedule := rfl

/-! ### writeStatus -/

@[simp] theorem State.writeStatus_cmd (v : Word) : (s.writeStatus v).cmd = s.cmd := rfl
@[simp] theorem State.writeStatus_done (v : Word) : (s.writeStatus v).done = (s.done && !v.getLsbD 1) := rfl
@[simp] theorem State.writeStatus_ovr (v : Word) : (s.writeStatus v).ovr = (s.ovr && !v.getLsbD 2) := rfl
@[simp] theorem State.writeStatus_err (v : Word) :
    (s.writeStatus v).err =
      if v.getLsbD 3 then ErrCode.none else s.err := rfl
@[simp] theorem State.writeStatus_poly (v : Word) : (s.writeStatus v).poly = s.poly := rfl
@[simp] theorem State.writeStatus_init (v : Word) : (s.writeStatus v).init = s.init := rfl
@[simp] theorem State.writeStatus_gen (v : Word) : (s.writeStatus v).gen = s.gen := rfl
@[simp] theorem State.writeStatus_key (v : Word) : (s.writeStatus v).key = s.key := rfl
@[simp] theorem State.writeStatus_data (v : Word) : (s.writeStatus v).data = s.data := rfl
@[simp] theorem State.writeStatus_bits (v : Word) : (s.writeStatus v).bits = s.bits := rfl
@[simp] theorem State.writeStatus_msgBase (v : Word) : (s.writeStatus v).msgBase = s.msgBase := rfl
@[simp] theorem State.writeStatus_msgLen (v : Word) : (s.writeStatus v).msgLen = s.msgLen := rfl
@[simp] theorem State.writeStatus_result (v : Word) : (s.writeStatus v).result = s.result := rfl
@[simp] theorem State.writeStatus_cap (v : Word) : (s.writeStatus v).cap = s.cap := rfl
@[simp] theorem State.writeStatus_impl (v : Word) : (s.writeStatus v).impl = s.impl := rfl
@[simp] theorem State.writeStatus_mbuf (v : Word) : (s.writeStatus v).mbuf = s.mbuf := rfl
@[simp] theorem State.writeStatus_snapshot (v : Word) : (s.writeStatus v).snapshot = s.snapshot := rfl
@[simp] theorem State.writeStatus_faults (v : Word) : (s.writeStatus v).faults = s.faults := rfl
@[simp] theorem State.writeStatus_response (v : Word) : (s.writeStatus v).response = s.response := rfl
@[simp] theorem State.writeStatus_resultUnseen (v : Word) : (s.writeStatus v).resultUnseen = s.resultUnseen := rfl
@[simp] theorem State.writeStatus_draws (v : Word) : (s.writeStatus v).draws = s.draws := rfl
@[simp] theorem State.writeStatus_program (v : Word) : (s.writeStatus v).program = s.program := rfl
@[simp] theorem State.writeStatus_schedule (v : Word) : (s.writeStatus v).schedule = s.schedule := rfl

/-! ### writeResult -/

@[simp] theorem State.writeResult_cmd {w : Nat} (S : Snapshot) (cs : List (Option Byte)) (f : List Byte → BitVec w) :
    (s.writeResult S cs f).cmd =
      s.cmd := rfl
@[simp] theorem State.writeResult_done {w : Nat} (S : Snapshot) (cs : List (Option Byte)) (f : List Byte → BitVec w) :
    (s.writeResult S cs f).done =
      s.done := rfl
@[simp] theorem State.writeResult_ovr {w : Nat} (S : Snapshot) (cs : List (Option Byte)) (f : List Byte → BitVec w) :
    (s.writeResult S cs f).ovr =
      s.ovr := rfl
@[simp] theorem State.writeResult_err {w : Nat} (S : Snapshot) (cs : List (Option Byte)) (f : List Byte → BitVec w) :
    (s.writeResult S cs f).err =
      s.err := rfl
@[simp] theorem State.writeResult_poly {w : Nat} (S : Snapshot) (cs : List (Option Byte)) (f : List Byte → BitVec w) :
    (s.writeResult S cs f).poly =
      s.poly := rfl
@[simp] theorem State.writeResult_init {w : Nat} (S : Snapshot) (cs : List (Option Byte)) (f : List Byte → BitVec w) :
    (s.writeResult S cs f).init =
      s.init := rfl
@[simp] theorem State.writeResult_gen {w : Nat} (S : Snapshot) (cs : List (Option Byte)) (f : List Byte → BitVec w) :
    (s.writeResult S cs f).gen =
      s.gen := rfl
@[simp] theorem State.writeResult_key {w : Nat} (S : Snapshot) (cs : List (Option Byte)) (f : List Byte → BitVec w) :
    (s.writeResult S cs f).key =
      s.key := rfl
@[simp] theorem State.writeResult_data {w : Nat} (S : Snapshot) (cs : List (Option Byte)) (f : List Byte → BitVec w) :
    (s.writeResult S cs f).data =
      s.data := rfl
@[simp] theorem State.writeResult_bits {w : Nat} (S : Snapshot) (cs : List (Option Byte)) (f : List Byte → BitVec w) :
    (s.writeResult S cs f).bits =
      s.bits := rfl
@[simp] theorem State.writeResult_msgBase {w : Nat} (S : Snapshot) (cs : List (Option Byte)) (f : List Byte → BitVec w) :
    (s.writeResult S cs f).msgBase =
      s.msgBase := rfl
@[simp] theorem State.writeResult_msgLen {w : Nat} (S : Snapshot) (cs : List (Option Byte)) (f : List Byte → BitVec w) :
    (s.writeResult S cs f).msgLen =
      s.msgLen := rfl
@[simp] theorem State.writeResult_result {w : Nat} (S : Snapshot) (cs : List (Option Byte)) (f : List Byte → BitVec w) :
    (s.writeResult S cs f).result =
      (if resultOpen S cs f then (Config.freeWord s.draws).setWidth w else f (zeroFill cs)).setWidth 32 := rfl
@[simp] theorem State.writeResult_cap {w : Nat} (S : Snapshot) (cs : List (Option Byte)) (f : List Byte → BitVec w) :
    (s.writeResult S cs f).cap =
      s.cap := rfl
@[simp] theorem State.writeResult_impl {w : Nat} (S : Snapshot) (cs : List (Option Byte)) (f : List Byte → BitVec w) :
    (s.writeResult S cs f).impl =
      s.impl := rfl
@[simp] theorem State.writeResult_mbuf {w : Nat} (S : Snapshot) (cs : List (Option Byte)) (f : List Byte → BitVec w) :
    (s.writeResult S cs f).mbuf =
      s.mbuf := rfl
@[simp] theorem State.writeResult_snapshot {w : Nat} (S : Snapshot) (cs : List (Option Byte)) (f : List Byte → BitVec w) :
    (s.writeResult S cs f).snapshot =
      s.snapshot := rfl
@[simp] theorem State.writeResult_faults {w : Nat} (S : Snapshot) (cs : List (Option Byte)) (f : List Byte → BitVec w) :
    (s.writeResult S cs f).faults =
      s.faults := rfl
@[simp] theorem State.writeResult_response {w : Nat} (S : Snapshot) (cs : List (Option Byte)) (f : List Byte → BitVec w) :
    (s.writeResult S cs f).response =
      s.response := rfl
@[simp] theorem State.writeResult_resultUnseen {w : Nat} (S : Snapshot) (cs : List (Option Byte))
    (f : List Byte → BitVec w) :
    (s.writeResult S cs f).resultUnseen =
      s.resultUnseen := rfl
@[simp] theorem State.writeResult_draws {w : Nat} (S : Snapshot) (cs : List (Option Byte)) (f : List Byte → BitVec w) :
    (s.writeResult S cs f).draws =
      if resultOpen S cs f then s.draws + 1 else s.draws := rfl
@[simp] theorem State.writeResult_program {w : Nat} (S : Snapshot) (cs : List (Option Byte)) (f : List Byte → BitVec w) :
    (s.writeResult S cs f).program =
      s.program := rfl
@[simp] theorem State.writeResult_schedule {w : Nat} (S : Snapshot) (cs : List (Option Byte)) (f : List Byte → BitVec w) :
    (s.writeResult S cs f).schedule =
      s.schedule := rfl

/-! ### reflectSpan -/

@[simp] theorem State.reflectSpan_cmd (S : Snapshot) : (s.reflectSpan S).cmd = s.cmd := rfl
@[simp] theorem State.reflectSpan_done (S : Snapshot) : (s.reflectSpan S).done = s.done := rfl
@[simp] theorem State.reflectSpan_ovr (S : Snapshot) : (s.reflectSpan S).ovr = s.ovr := rfl
@[simp] theorem State.reflectSpan_err (S : Snapshot) : (s.reflectSpan S).err = s.err := rfl
@[simp] theorem State.reflectSpan_poly (S : Snapshot) : (s.reflectSpan S).poly = s.poly := rfl
@[simp] theorem State.reflectSpan_init (S : Snapshot) : (s.reflectSpan S).init = s.init := rfl
@[simp] theorem State.reflectSpan_gen (S : Snapshot) : (s.reflectSpan S).gen = s.gen := rfl
@[simp] theorem State.reflectSpan_key (S : Snapshot) : (s.reflectSpan S).key = s.key := rfl
@[simp] theorem State.reflectSpan_data (S : Snapshot) : (s.reflectSpan S).data = s.data := rfl
@[simp] theorem State.reflectSpan_bits (S : Snapshot) : (s.reflectSpan S).bits = s.bits := rfl
@[simp] theorem State.reflectSpan_msgBase (S : Snapshot) : (s.reflectSpan S).msgBase = s.msgBase := rfl
@[simp] theorem State.reflectSpan_msgLen (S : Snapshot) : (s.reflectSpan S).msgLen = s.msgLen := rfl
@[simp] theorem State.reflectSpan_result (S : Snapshot) : (s.reflectSpan S).result = s.result := rfl
@[simp] theorem State.reflectSpan_cap (S : Snapshot) : (s.reflectSpan S).cap = s.cap := rfl
@[simp] theorem State.reflectSpan_impl (S : Snapshot) : (s.reflectSpan S).impl = s.impl := rfl
@[simp] theorem State.reflectSpan_mbuf (S : Snapshot) :
    (s.reflectSpan S).mbuf =
      reflectCells s.mbuf S.base.toNat s.draws S.len.toNat := rfl
@[simp] theorem State.reflectSpan_snapshot (S : Snapshot) : (s.reflectSpan S).snapshot = s.snapshot := rfl
@[simp] theorem State.reflectSpan_faults (S : Snapshot) :
    (s.reflectSpan S).faults =
      { s.faults with uninitRead := s.faults.uninitRead || hasUninit (S.cells s.mbuf) } := rfl
@[simp] theorem State.reflectSpan_response (S : Snapshot) : (s.reflectSpan S).response = s.response := rfl
@[simp] theorem State.reflectSpan_resultUnseen (S : Snapshot) : (s.reflectSpan S).resultUnseen = s.resultUnseen := rfl
@[simp] theorem State.reflectSpan_draws (S : Snapshot) :
    (s.reflectSpan S).draws =
      if hasUninit (S.cells s.mbuf) then s.draws + S.len.toNat else s.draws := rfl
@[simp] theorem State.reflectSpan_program (S : Snapshot) : (s.reflectSpan S).program = s.program := rfl
@[simp] theorem State.reflectSpan_schedule (S : Snapshot) : (s.reflectSpan S).schedule = s.schedule := rfl

/-! ### observed -/

@[simp] theorem State.observed_cmd (r : Reg) : (s.observed r).cmd = s.cmd := rfl
@[simp] theorem State.observed_done (r : Reg) : (s.observed r).done = s.done := rfl
@[simp] theorem State.observed_ovr (r : Reg) : (s.observed r).ovr = s.ovr := rfl
@[simp] theorem State.observed_err (r : Reg) : (s.observed r).err = s.err := rfl
@[simp] theorem State.observed_poly (r : Reg) : (s.observed r).poly = s.poly := rfl
@[simp] theorem State.observed_init (r : Reg) : (s.observed r).init = s.init := rfl
@[simp] theorem State.observed_gen (r : Reg) : (s.observed r).gen = s.gen := rfl
@[simp] theorem State.observed_key (r : Reg) : (s.observed r).key = s.key := rfl
@[simp] theorem State.observed_data (r : Reg) : (s.observed r).data = s.data := rfl
@[simp] theorem State.observed_bits (r : Reg) : (s.observed r).bits = s.bits := rfl
@[simp] theorem State.observed_msgBase (r : Reg) : (s.observed r).msgBase = s.msgBase := rfl
@[simp] theorem State.observed_msgLen (r : Reg) : (s.observed r).msgLen = s.msgLen := rfl
@[simp] theorem State.observed_result (r : Reg) : (s.observed r).result = s.result := rfl
@[simp] theorem State.observed_cap (r : Reg) : (s.observed r).cap = s.cap := rfl
@[simp] theorem State.observed_impl (r : Reg) : (s.observed r).impl = s.impl := rfl
@[simp] theorem State.observed_mbuf (r : Reg) : (s.observed r).mbuf = s.mbuf := rfl
@[simp] theorem State.observed_snapshot (r : Reg) : (s.observed r).snapshot = s.snapshot := rfl
@[simp] theorem State.observed_faults (r : Reg) : (s.observed r).faults = s.faults := rfl
@[simp] theorem State.observed_response (r : Reg) : (s.observed r).response = s.response := rfl
@[simp] theorem State.observed_draws (r : Reg) : (s.observed r).draws = s.draws := rfl
@[simp] theorem State.observed_program (r : Reg) : (s.observed r).program = s.program := rfl
@[simp] theorem State.observed_schedule (r : Reg) : (s.observed r).schedule = s.schedule := rfl
@[simp] theorem State.observed_resultUnseen (r : Reg) :
    (s.observed r).resultUnseen = (s.resultUnseen && (r != .status || s.busy)) := rfl

/-! ### warmReset -/

@[simp] theorem State.warmReset_cmd : (s.warmReset).cmd = 0 := rfl
@[simp] theorem State.warmReset_done : (s.warmReset).done = false := rfl
@[simp] theorem State.warmReset_ovr : (s.warmReset).ovr = false := rfl
@[simp] theorem State.warmReset_err : (s.warmReset).err = ErrCode.none := rfl
@[simp] theorem State.warmReset_poly : (s.warmReset).poly = 0 := rfl
@[simp] theorem State.warmReset_init : (s.warmReset).init = 0 := rfl
@[simp] theorem State.warmReset_gen : (s.warmReset).gen = 0 := rfl
@[simp] theorem State.warmReset_key : (s.warmReset).key = 0 := rfl
@[simp] theorem State.warmReset_data : (s.warmReset).data = 0 := rfl
@[simp] theorem State.warmReset_bits : (s.warmReset).bits = 0 := rfl
@[simp] theorem State.warmReset_msgBase : (s.warmReset).msgBase = 0 := rfl
@[simp] theorem State.warmReset_msgLen : (s.warmReset).msgLen = 0 := rfl
@[simp] theorem State.warmReset_result : (s.warmReset).result = 0 := rfl
@[simp] theorem State.warmReset_cap : (s.warmReset).cap = s.cap := rfl
@[simp] theorem State.warmReset_impl : (s.warmReset).impl = s.impl := rfl
@[simp] theorem State.warmReset_mbuf : (s.warmReset).mbuf = s.mbufAfterReset := rfl
@[simp] theorem State.warmReset_snapshot : (s.warmReset).snapshot = none := rfl
@[simp] theorem State.warmReset_faults : (s.warmReset).faults = s.faults := rfl
@[simp] theorem State.warmReset_response : (s.warmReset).response = s.response := rfl
@[simp] theorem State.warmReset_resultUnseen : (s.warmReset).resultUnseen = false := rfl
@[simp] theorem State.warmReset_draws : (s.warmReset).draws = s.draws := rfl
@[simp] theorem State.warmReset_program : (s.warmReset).program = s.program := rfl
@[simp] theorem State.warmReset_schedule : (s.warmReset).schedule = s.schedule := rfl

end Sys2Proof.Machine
end

