-- ==== Sys2Proof/Laws/Ops.lean ====
section
/-! SUPPORT. Everything the shared completion operations can do, one lemma each; the meanings' users cite these instead
of unfolding. -/

namespace Sys2Proof.Machine

/-! ### completeValue -/

section

variable {w : Nat} (s : State) (S : Snapshot) (cs : List (Option Byte)) (f : List Byte → BitVec w)

@[simp] theorem State.completeValue_done : (s.completeValue S cs f).done = true := rfl
@[simp] theorem State.completeValue_snapshot : (s.completeValue S cs f).snapshot = none := rfl
@[simp] theorem State.completeValue_cmd : (s.completeValue S cs f).cmd = s.cmd := rfl
@[simp] theorem State.completeValue_ovr : (s.completeValue S cs f).ovr = s.ovr := rfl
@[simp] theorem State.completeValue_err : (s.completeValue S cs f).err = s.err := rfl
@[simp] theorem State.completeValue_cap : (s.completeValue S cs f).cap = s.cap := rfl
@[simp] theorem State.completeValue_impl : (s.completeValue S cs f).impl = s.impl := rfl
@[simp] theorem State.completeValue_resultUnseen : (s.completeValue S cs f).resultUnseen = true := rfl
@[simp] theorem State.completeValue_response : (s.completeValue S cs f).response = s.response := rfl
@[simp] theorem State.completeValue_program : (s.completeValue S cs f).program = s.program := rfl
@[simp] theorem State.completeValue_schedule : (s.completeValue S cs f).schedule = s.schedule := rfl
@[simp] theorem State.completeValue_poly : (s.completeValue S cs f).poly = s.poly := rfl
@[simp] theorem State.completeValue_init : (s.completeValue S cs f).init = s.init := rfl
@[simp] theorem State.completeValue_gen : (s.completeValue S cs f).gen = s.gen := rfl
@[simp] theorem State.completeValue_key : (s.completeValue S cs f).key = s.key := rfl
@[simp] theorem State.completeValue_data : (s.completeValue S cs f).data = s.data := rfl
@[simp] theorem State.completeValue_bits : (s.completeValue S cs f).bits = s.bits := rfl
@[simp] theorem State.completeValue_msgBase : (s.completeValue S cs f).msgBase = s.msgBase := rfl
@[simp] theorem State.completeValue_msgLen : (s.completeValue S cs f).msgLen = s.msgLen := rfl
@[simp] theorem State.completeValue_faults : (s.completeValue S cs f).faults =
    { s.faults with uninitRead := s.faults.uninitRead || hasUninit cs } := rfl
@[simp] theorem State.completeValue_result : (s.completeValue S cs f).result =
    (if resultOpen S cs f then (Config.freeWord s.draws).setWidth w else f (zeroFill cs)).setWidth 32 := rfl

end

/-- Without a race, MBUF is unchanged by a command that produces a value. -/
theorem State.completeValue_mbuf {w : Nat} (s : State) {S : Snapshot} (h : S.raced = false)
    (cs : List (Option Byte)) (f : List Byte → BitVec w) : (s.completeValue S cs f).mbuf = s.mbuf := by
  simp [State.completeValue, h]

/-- The whole effect over a written message without a race: RESULT, DONE and the snapshot (R205), not yet seen. -/
theorem State.completeValue_written {w : Nat} (s : State) {S : Snapshot} (h : S.raced = false) (msg : List Byte)
    (f : List Byte → BitVec w) :
    s.completeValue S (msg.map some) f =
      { s with result := (f msg).setWidth 32, done := true, snapshot := none, resultUnseen := true } := by
  simp [State.completeValue, State.recordUninit, State.writeResult, State.finish, resultOpen, h,
    dependsOnUninit_written, hasUninit_written, zeroFill_written]

/-- As above, for a command that reads no message. -/
theorem State.completeValue_operands {w : Nat} (s : State) {S : Snapshot} (h : S.raced = false) (v : BitVec w) :
    s.completeValue S [] (fun _ => v) = { s with result := v.setWidth 32, done := true, snapshot := none, resultUnseen := true } :=
  State.completeValue_written s h [] fun _ => v

/-! ### The completion of a command -/

/-- A completion runs only with a command in flight. -/
theorem withSnapshot_next {s t : State} {k : Snapshot → Host.Outcome State Fault Refusal}
    (h : withSnapshot s k = .next t) : ∃ S, s.snapshot = some S ∧ k S = .next t := by
  unfold withSnapshot at h
  split at h
  · cases h
  · exact ⟨_, ‹_›, h⟩

theorem withSpan_next {s t : State} {k : Snapshot → State} (h : withSpan s k = .next t) :
    ∃ S, s.snapshot = some S ∧ spanInMbuf S.base S.len s.cap = true ∧ t = k S := by
  obtain ⟨S, hS, h⟩ := withSnapshot_next h
  split at h
  · exact ⟨S, hS, ‹_›, by cases h; rfl⟩
  · cases h

theorem overMessage_next {w : Nat} {s t : State} {f : Snapshot → List Byte → BitVec w}
    (h : overMessage s f = .next t) :
    ∃ S, s.snapshot = some S ∧ spanInMbuf S.base S.len s.cap = true ∧
      t = s.completeValue S (S.cells s.mbuf) (f S) :=
  withSpan_next h

theorem overOperands_next {w : Nat} {s t : State} {f : Snapshot → BitVec w} (h : overOperands s f = .next t) :
    ∃ S, s.snapshot = some S ∧ t = s.completeValue S [] fun _ => f S := by
  obtain ⟨S, hS, h⟩ := withSnapshot_next h
  exact ⟨S, hS, by cases h; rfl⟩

theorem overCountedBits_next {w : Nat} {s t : State} {f : Snapshot → BitVec w}
    (h : overCountedBits s f = .next t) :
    ∃ S, s.snapshot = some S ∧ bitCountOk S.bits = true ∧ t = s.completeValue S [] fun _ => f S := by
  obtain ⟨S, hS, h⟩ := withSnapshot_next h
  split at h
  · exact ⟨S, hS, ‹_›, by cases h; rfl⟩
  · cases h

/-! The same operations, run forward. -/

theorem withSpan_eq {s : State} {S : Snapshot} (k : Snapshot → State) (hS : s.snapshot = some S)
    (hv : spanInMbuf S.base S.len s.cap = true) : withSpan s k = .next (k S) := by
  simp [withSpan, withSnapshot, hS, hv]

theorem overMessage_eq {w : Nat} {s : State} {S : Snapshot} (f : Snapshot → List Byte → BitVec w)
    (hS : s.snapshot = some S) (hv : spanInMbuf S.base S.len s.cap = true) :
    overMessage s f = .next (s.completeValue S (S.cells s.mbuf) (f S)) :=
  withSpan_eq _ hS hv

theorem overOperands_eq {w : Nat} {s : State} {S : Snapshot} (f : Snapshot → BitVec w)
    (hS : s.snapshot = some S) : overOperands s f = .next (s.completeValue S [] fun _ => f S) := by
  simp [overOperands, withSnapshot, hS]

theorem overCountedBits_eq {w : Nat} {s : State} {S : Snapshot} (f : Snapshot → BitVec w)
    (hS : s.snapshot = some S) (hv : bitCountOk S.bits = true) :
    overCountedBits s f = .next (s.completeValue S [] fun _ => f S) := by
  simp [overCountedBits, withSnapshot, hS, hv]

/-! ### What a completion can be, over all commands -/

/-- The ways a completion of `i` can answer `t`: the span rewritten (REFLECT), or a value written to RESULT. -/
def CompletionOf (i : Instr) (s t : State) : Prop :=
  ∃ S, s.snapshot = some S ∧ (readsMessage i = true → spanInMbuf S.base S.len s.cap = true) ∧
    ((i = .reflect ∧ t = (s.reflectSpan S).finish S) ∨
      (i ≠ .reflect ∧ ∃ (w : Nat) (cs : List (Option Byte)) (f : List Byte → BitVec w),
        w ≤ 32 ∧ t = s.completeValue S cs f))

theorem CompletionOf.ofMessage {i : Instr} {w : Nat} {s t : State} {f : Snapshot → List Byte → BitVec w}
    (h : overMessage s f = .next t) (hi : i ≠ .reflect) (hw : w ≤ 32) : CompletionOf i s t := by
  obtain ⟨S, hS, hv, ht⟩ := overMessage_next h
  exact ⟨S, hS, fun _ => hv, .inr ⟨hi, w, _, _, hw, ht⟩⟩

theorem CompletionOf.ofOperands {i : Instr} {w : Nat} {s t : State} {f : Snapshot → BitVec w}
    (h : overOperands s f = .next t) (hi : i ≠ .reflect) (hr : readsMessage i = false) (hw : w ≤ 32) :
    CompletionOf i s t := by
  obtain ⟨S, hS, ht⟩ := overOperands_next h
  exact ⟨S, hS, fun hm => absurd hm (by simp [hr]), .inr ⟨hi, w, _, _, hw, ht⟩⟩

/-- Everything the completion of any command can do. -/
theorem exec_next {i : Instr} {s t : State} (h : exec i s = .next t) : CompletionOf i s t := by
  cases i with
  | rev8 => exact .ofOperands h (by decide) rfl (by decide)
  | reflect =>
    obtain ⟨S, hS, hv, ht⟩ := withSpan_next h
    exact ⟨S, hS, fun _ => hv, .inl ⟨rfl, ht⟩⟩
  | crc4 => exact .ofMessage h (by decide) (by decide)
  | crc7 => exact .ofMessage h (by decide) (by decide)
  | crc8 => exact .ofMessage h (by decide) (by decide)
  | crc16 => exact .ofMessage h (by decide) (by decide)
  | crc8le => exact .ofMessage h (by decide) (by decide)
  | crc16lsb => exact .ofMessage h (by decide) (by decide)
  | lfsr8 => exact .ofMessage h (by decide) (by decide)
  | lfsr16 =>
    obtain ⟨S, hS, _, ht⟩ := overCountedBits_next h
    exact ⟨S, hS, fun hm => absurd hm (by decide), .inr ⟨by decide, _, _, _, by decide, ht⟩⟩
  | parity8 => exact .ofOperands h (by decide) rfl (by decide)
  | parityb => exact .ofMessage h (by decide) (by decide)
  | xorb => exact .ofMessage h (by decide) (by decide)
  | addb => exact .ofMessage h (by decide) (by decide)

end Sys2Proof.Machine
end

