-- ==== Sys2Proof/Laws/Bus.lean ====
section
/-! SUPPORT. Everything a host bus access can do, said once, and the offsets that BusError lets through. -/

namespace Sys2Proof.Machine

/-- Every byte of an access without BUSERR is mapped. -/
theorem busError_mapped {off : Offset} {size : Size} {cap j : Nat} (h : busError off size cap = false)
    (hj : j < size.bytes) : mapped cap (off.toNat + j) = true := by
  simp only [busError, Bool.or_eq_false_iff, List.any_eq_false, List.mem_range, Bool.not_eq_true',
    Bool.not_eq_false] at h
  exact h.1.2 j hj

theorem Size.bytes_pos (size : Size) : 0 < size.bytes := by cases size <;> decide

/-- An access without BUSERR outside the register window lies in the message window (R52, R53). -/
theorem busError_message {off : Offset} {size : Size} {cap : Nat} (h : busError off size cap = false)
    (hw : ¬ off.toNat < regWindowEnd) : msgWindow ≤ off.toNat ∧ off.toNat - msgWindow + size.bytes ≤ cap := by
  have key : ∀ j, j < size.bytes → msgWindow ≤ off.toNat + j ∧ off.toNat + j < msgWindow + cap := by
    intro j hj
    have hm := busError_mapped h hj
    simp only [mapped, Bool.or_eq_true, Bool.and_eq_true, decide_eq_true_eq] at hm
    omega
  have hpos := size.bytes_pos
  have h0 := key 0 hpos
  have h1 := key (size.bytes - 1) (by omega)
  omega

/-- The ways an access can leave the state: a response alone; a free value drawn for an unspecified RESULT; a
register read; a register written; a read of MBUF; a write of MBUF. -/
inductive AccessEffect (s : State) : State → Prop where
  | respond (r : BusResp) (d : Option Word) : AccessEffect s (s.respond r d)
  | unspecifiedResult : s.resultUnspecified = true →
      AccessEffect s ({ s with draws := s.draws + 1 }.respond .ok (some (Config.freeWord s.draws)))
  | readReg (r : Reg) : AccessEffect s ((s.observed r).respond .ok (some (s.regValue r)))
  | writeReg (r : Reg) (v : Word) : AccessEffect s ((s.writeReg r v).respond .ok none)
  | readMessage (a n : Nat) : a + n ≤ s.cap → AccessEffect s (s.readMessage a n)
  | writeMessage (a n : Nat) (v : Word) : a + n ≤ s.cap → AccessEffect s (s.writeMessage a n v)

theorem readRegister_effect (s : State) (off : Nat) : AccessEffect s (s.readRegister off) := by
  unfold State.readRegister
  split
  · exact .respond _ _
  · split
    · rename_i h
      exact .unspecifiedResult (by simp only [Bool.and_eq_true] at h; exact h.2)
    · exact .readReg _

theorem writeRegister_effect (s : State) (off : Nat) (v : Word) : AccessEffect s (s.writeRegister off v) := by
  unfold State.writeRegister
  split
  · exact .respond _ _
  · exact .writeReg _ _

/-- Everything an access can do. -/
theorem access_effect (s : State) (a : Access) : AccessEffect s (s.access a) := by
  cases a with
  | read off size =>
    simp only [State.access, State.hostRead]
    split
    · exact .respond _ _
    · split
      · exact readRegister_effect _ _
      · rename_i hb hw
        exact .readMessage _ _ (busError_message (Bool.eq_false_iff.2 hb) hw).2
  | write off size v =>
    simp only [State.access, State.hostWrite]
    split
    · exact .respond _ _
    · split
      · exact writeRegister_effect _ _ _
      · rename_i hb hw
        exact .writeMessage _ _ _ (busError_message (Bool.eq_false_iff.2 hb) hw).2

/-- What a read of MBUF can do: it draws free values, records model faults, and answers; only a race touches more. -/
theorem readMessage_cases (s : State) (a n : Nat) :
    (∃ k d, s.readMessage a n =
        ({ s.recordUninit (hasUninit (s.mbuf.cells a n)) with draws := k }).respond .ok (some d) ∧
      s.racingSnapshot false a n = none) ∨
    (∃ S d, s.racingSnapshot false a n = some S ∧ s.readMessage a n =
        (({ s.recordUninit (hasUninit (s.mbuf.cells a n)) with draws := s.draws + 1 }).recordRace S).respond .ok
          (some d)) := by
  unfold State.readMessage
  split
  · exact .inr ⟨_, _, ‹_›, rfl⟩
  · exact .inl ⟨_, _, rfl, ‹_›⟩

/-- A racing snapshot is the command in flight. -/
theorem racingSnapshot_some {s : State} {w : Bool} {a n : Nat} {S : Snapshot}
    (h : s.racingSnapshot w a n = some S) :
    s.snapshot = some S ∧ S.touches a n = true ∧ (w || S.isReflect) = true := by
  simpa [State.racingSnapshot, Option.filter_eq_some_iff] using h

theorem touches_iff (S : Snapshot) (a n : Nat) :
    S.touches a n = true ↔ ∃ j, j < n ∧ S.base.toNat ≤ a + j ∧ a + j < S.base.toNat + S.len.toNat := by
  simp [Snapshot.touches, Snapshot.inSpan]

/-- What a host write to CMD can do (R201, R204). -/
theorem writeCmd_cases (s : State) (v : Word) :
    (s.busy = true ∧ s.writeCmd v = s.dropCommand) ∨
    (s.busy = false ∧ s.validate v = .none ∧ s.writeCmd v = s.acceptCommand v) ∨
    (s.busy = false ∧ s.validate v ≠ .none ∧ s.writeCmd v = s.refuseCommand v (s.validate v)) := by
  unfold State.writeCmd
  split
  · exact .inl ⟨‹_›, rfl⟩
  · refine .inr ?_
    have hb : s.busy = false := by simpa using ‹¬s.busy = true›
    unfold State.issue
    split
    · exact .inl ⟨hb, ‹_›, rfl⟩
    · exact .inr ⟨hb, ‹_›, rfl⟩

/-- A command that passes validation decodes, keeps its span in MBUF and its bit count in range (R202). -/
theorem validate_none {s : State} {v : Word} (h : s.validate v = .none) :
    ∃ i, decode v = .ok i ∧ (readsMessage i = true → spanInMbuf s.msgBase s.msgLen s.cap = true) ∧
      (i = .lfsr16 → bitCountOk s.bits = true) := by
  unfold State.validate at h
  split at h
  · cases h
  · rename_i c hc
    split at h
    · cases h
    · rename_i h1
      split at h
      · cases h
      · rename_i h2
        refine ⟨c, hc, fun hr => ?_, fun hl => ?_⟩
        · simpa [hr] using h1
        · subst hl; simpa using h2

end Sys2Proof.Machine
end

