-- ==== Sys2Proof/Laws/PerInstr.lean ====
section
/-! SUPPORT. A statement made per command: the fields of its command word (R80, R82). -/

namespace Sys2Proof.Laws.CommandFields

/-- The group of a command (R80, R82). -/
def group : Instr → Nat
  | .rev8 => 1
  | .reflect => 1
  | .crc4 => 2
  | .crc7 => 2
  | .crc8 => 2
  | .crc16 => 2
  | .crc8le => 2
  | .crc16lsb => 2
  | .lfsr8 => 3
  | .lfsr16 => 3
  | .parity8 => 4
  | .parityb => 4
  | .xorb => 4
  | .addb => 4

/-- The word of the command has RSV = 0 and the command's group in GRP, and passes every check of WellFormed. -/
def Statement (i : Instr) : Prop :=
  (encode i).extractLsb' 8 24 = 0 ∧ ((encode i).extractLsb' 4 4).toNat = group i ∧
    CommandWord.wellFormed (encode i) = true ∧ i.wellFormed = true

theorem rev8 : Statement .rev8 := by unfold Statement; decide
theorem reflect : Statement .reflect := by unfold Statement; decide
theorem crc4 : Statement .crc4 := by unfold Statement; decide
theorem crc7 : Statement .crc7 := by unfold Statement; decide
theorem crc8 : Statement .crc8 := by unfold Statement; decide
theorem crc16 : Statement .crc16 := by unfold Statement; decide
theorem crc8le : Statement .crc8le := by unfold Statement; decide
theorem crc16lsb : Statement .crc16lsb := by unfold Statement; decide
theorem lfsr8 : Statement .lfsr8 := by unfold Statement; decide
theorem lfsr16 : Statement .lfsr16 := by unfold Statement; decide
theorem parity8 : Statement .parity8 := by unfold Statement; decide
theorem parityb : Statement .parityb := by unfold Statement; decide
theorem xorb : Statement .xorb := by unfold Statement; decide
theorem addb : Statement .addb := by unfold Statement; decide

end Sys2Proof.Laws.CommandFields
end

