-- ==== Sys2Proof/Laws/Step.lean ====
section
/-! SUPPORT. Everything one step can do, said once. -/

namespace Sys2Proof.Machine

/-- The state a step acts on, once the schedule has given the turn. -/
def State.turned (s : State) : State := { s with schedule := s.schedule.tail }

/-- The turn a step takes. -/
def State.turn (s : State) : Turn := s.schedule.headD s.dueTurn

theorem step_eq (s : State) : step s = takeTurn s.turned s.turn := by
  unfold step State.turned State.turn
  split
  · simp [*]
  · rename_i h
    rw [h]
    rcases s with ⟨⟩
    subst h
    rfl

/-- What the host's turn can do: nothing, an access, or one round of `wait`. -/
inductive HostEffect (s : State) : State → Prop where
  | idle : s.program = [] → HostEffect s s
  | access (a : Access) (ops : List HostOp) : s.program = .access a :: ops →
      HostEffect s ({ s with program := ops }.access a)
  | waiting (ops : List HostOp) : s.program = .wait :: ops → s.busy = true → HostEffect s s.poll
  | waited (ops : List HostOp) : s.program = .wait :: ops → s.busy = false →
      HostEffect s { s.poll with program := ops }

/-- Bit 0 of a STATUS read is BUSY (R26). -/
theorem statusWord_busy (s : State) : s.statusWord.getLsbD 0 = s.busy := by
  rw [State.statusWord, BitVec.getLsbD_append]
  simp

theorem hostTurn_effect (s : State) : HostEffect s (hostTurn s) := by
  unfold hostTurn
  split
  · exact .idle ‹_›
  · exact .access _ _ ‹_›
  · rw [statusWord_busy]
    split
    · exact .waiting _ ‹_› ‹_›
    · exact .waited _ ‹_› (by simpa using ‹¬s.busy = true›)

/-- What the engine's turn can do: nothing while idle, or the completion of the command in flight. -/
theorem engineTurn_next {s t : State} (h : engineTurn s = .next t) :
    (s.snapshot = none ∧ t = s) ∨
    ∃ S i, s.snapshot = some S ∧ decode S.cmd = .ok i ∧ exec i s = .next t := by
  unfold engineTurn at h
  split at h
  · exact .inl ⟨‹_›, by cases h; rfl⟩
  · split at h
    · exact .inr ⟨_, _, ‹_›, ‹_›, h⟩
    · cases h

/-- Everything a step can do. -/
theorem step_next {s t : State} (h : step s = .next t) :
    (s.turn = .host ∧ HostEffect s.turned t) ∨
    (s.turn = .engine ∧ s.snapshot = none ∧ t = s.turned) ∨
    (s.turn = .engine ∧ ∃ S i, s.snapshot = some S ∧ decode S.cmd = .ok i ∧ exec i s.turned = .next t) ∨
    (s.turn = .warmReset ∧ t = s.turned.warmReset) := by
  rw [step_eq] at h
  cases ht : s.turn with
  | host =>
    rw [ht] at h
    cases h
    exact .inl ⟨rfl, hostTurn_effect _⟩
  | engine =>
    rw [ht] at h
    rcases engineTurn_next h with ⟨hS, rfl⟩ | ⟨S, i, hS, hi, he⟩
    · exact .inr (.inl ⟨rfl, hS, rfl⟩)
    · exact .inr (.inr (.inl ⟨rfl, S, i, hS, hi, he⟩))
  | warmReset =>
    rw [ht] at h
    cases h
    exact .inr (.inr (.inr ⟨rfl, rfl⟩))

end Sys2Proof.Machine
end

