-- ==== Sys2Proof/Tests/Slice0.lean ====
section
/-! SUPPORT. Tests with expected values from spec/, and for every obligation with hypotheses a witness that they can be
met together. -/

namespace Sys2Proof.Tests

open Sys2Proof.Machine

/-! ### Well-formedness: an ill-formed term for each check, which the check refuses -/

/-- 0x122: RSV is not 0. -/
theorem test_wf_rsv : CommandWord.rsvClear 0x122 = false ∧ CommandWord.wellFormed 0x122 = false := by decide

/-- 0x50: no group 5. -/
theorem test_wf_group : CommandWord.groupListed 0x50 = false ∧ CommandWord.wellFormed 0x50 = false := by decide

/-- 0x12, 0x32, 0x44: no such function. -/
theorem test_wf_function : CommandWord.functionListed 0x12 = false ∧ CommandWord.functionListed 0x32 = false ∧
    CommandWord.functionListed 0x44 = false ∧ CommandWord.wellFormed 0x44 = false := by decide

/-- 0x2A: RSV3 = 1. -/
theorem test_wf_crcBit : CommandWord.crcBitClear 0x2A = false ∧ CommandWord.wellFormed 0x2A = false := by decide

/-- 0x24, 0x25: no LSB-first CRC of width 4 or 7. -/
theorem test_wf_crcWidth : CommandWord.crcWidthListed 0x24 = false ∧ CommandWord.crcWidthListed 0x25 = false ∧
    CommandWord.wellFormed 0x24 = false := by decide

/-- A message address without an offset. -/
theorem test_wf_address : HostStmt.addressFits 0x100000 = false ∧ HostStmt.addressFits 0xFFFFF = true ∧
    (HostStmt.sw 0x100000 0).wellFormed = false ∧ (HostStmt.lb 0x100000).wellFormed = false := by decide

/-- Every word of the opcode map is well-formed. -/
theorem test_wf_opcodes : ([0x10, 0x11, 0x20, 0x21, 0x22, 0x23, 0x26, 0x27, 0x30, 0x31, 0x40, 0x41, 0x42, 0x43] :
    List Word).all CommandWord.wellFormed = true := by decide

/-! ### Decoding: the words of R82, bit by bit as spec/opcode_table.json writes them -/

theorem test_decode_rev8 : decode 0b00000000000000000000000000010000 = .ok .rev8 := by decide
theorem test_decode_reflect : decode 0b00000000000000000000000000010001 = .ok .reflect := by decide
theorem test_decode_crc4 : decode 0b00000000000000000000000000100000 = .ok .crc4 := by decide
theorem test_decode_crc7 : decode 0b00000000000000000000000000100001 = .ok .crc7 := by decide
theorem test_decode_crc8 : decode 0b00000000000000000000000000100010 = .ok .crc8 := by decide
theorem test_decode_crc16 : decode 0b00000000000000000000000000100011 = .ok .crc16 := by decide
theorem test_decode_crc8le : decode 0b00000000000000000000000000100110 = .ok .crc8le := by decide
theorem test_decode_crc16lsb : decode 0b00000000000000000000000000100111 = .ok .crc16lsb := by decide
theorem test_decode_lfsr8 : decode 0b00000000000000000000000000110000 = .ok .lfsr8 := by decide
theorem test_decode_lfsr16 : decode 0b00000000000000000000000000110001 = .ok .lfsr16 := by decide
theorem test_decode_parity8 : decode 0b00000000000000000000000001000000 = .ok .parity8 := by decide
theorem test_decode_parityb : decode 0b00000000000000000000000001000001 = .ok .parityb := by decide
theorem test_decode_xorb : decode 0b00000000000000000000000001000010 = .ok .xorb := by decide
theorem test_decode_addb : decode 0b00000000000000000000000001000011 = .ok .addb := by decide

/-- Section 2.6 of 95_test_vectors.md: the words refused as IllegalCommand. -/
theorem test_decode_illegal : ([0x00, 0x12, 0x32, 0x44, 0x50, 0xFF, 0x24, 0x25, 0x28, 0x2F, 0x122, 0x80000022] :
    List Word).all (fun c => (decode c).toOption.isNone) = true := by decide

/-! ### Small states -/

/-- The block right after power-on with MSG_CAP = 256 and a serial datapath. -/
def block : State := { State.reset with cap := 256, impl := .serial }

/-- Bytes written from `a` on. -/
def bytesAt (a : Nat) : List Byte → Memory
  | [] => []
  | b :: bs => (a, b) :: bytesAt (a + 1) bs

/-- "123456789" (R14). -/
def digits : List Byte := [0x31, 0x32, 0x33, 0x34, 0x35, 0x36, 0x37, 0x38, 0x39]

/-- A snapshot with the word of `i`, the span `base`, `len`, and every other operand 0. -/
def snap (i : Instr) (base len : Word) : Snapshot where
  cmd := encode i
  poly := 0
  init := 0
  gen := 0
  key := 0
  data := 0
  bits := 0
  base := base
  len := len
  raced := false

/-- The snapshot in flight over the message `msg` from cell 0 on. -/
def inFlight (S : Snapshot) (msg : List Byte) : State :=
  { block with cmd := S.cmd, mbuf := bytesAt 0 msg, snapshot := some S }

/-- RESULT after the completion. -/
def resultOf (o : Host.Outcome State Fault Refusal) : Option Word :=
  match o with
  | .next t => some t.result
  | .fault _ => none
  | .refused _ => none

/-- MBUF after the completion. -/
def mbufOf (o : Host.Outcome State Fault Refusal) : Option Memory :=
  match o with
  | .next t => some t.mbuf
  | .fault _ => none
  | .refused _ => none

/-- STATUS after a CMD write of `c` with the given span and bit count (section 2.6). -/
def statusAfterIssue (c base len : Word) (bits : BitVec 8) : Word :=
  (({ block with msgBase := base, msgLen := len, bits := bits }).access (.write 0x000 .word c)).statusWord

/-- The response to the last of a list of accesses. -/
def responseTo (s : State) (as : List Access) : Option Response := (as.foldl State.access s).response

/-! ### Vectors of sections 2.1 to 2.5 of 95_test_vectors.md -/

theorem test_rev8 : resultOf (exec .rev8 (inFlight { snap .rev8 0 0 with data := 0x12345601 } [])) =
    some 0x80 := by decide
theorem test_rev8_nibbles : resultOf (exec .rev8 (inFlight { snap .rev8 0 0 with data := 0x12 } [])) =
    some 0x48 := by decide
theorem test_reflect : mbufOf (exec .reflect (inFlight (snap .reflect 1 2) [0x01, 0x02, 0xF0, 0x03])) =
    some (bytesAt 0 [0x01, 0x40, 0x0F, 0x03]) := by decide
theorem test_reflect_empty : mbufOf (exec .reflect (inFlight (snap .reflect 0x100 0) [0x01])) =
    some (bytesAt 0 [0x01]) := by decide
theorem test_crc4 : resultOf (exec .crc4 (inFlight { snap .crc4 0 1 with poly := 0xF, init := 0xF } [0xFF])) =
    some 0x8 := by decide
theorem test_crc4_parallel : resultOf (exec .crc4 { inFlight { snap .crc4 0 9 with poly := 0x13, init := 0x1F }
    digits with impl := .parallel }) = some 0x4 := by decide +kernel
theorem test_crc7 : resultOf (exec .crc7 (inFlight { snap .crc7 0 1 with poly := 0x09 } [0x40])) =
    some 0x64 := by decide
theorem test_crc7_parallel : resultOf (exec .crc7 { inFlight { snap .crc7 0 1 with poly := 0x09 } [0x40] with
    impl := .parallel }) = some 0x64 := by decide
theorem test_crc8 : resultOf (exec .crc8 (inFlight { snap .crc8 0 2 with poly := 0x31, init := 0xFF } [0xBE, 0xEF])) =
    some 0x92 := by decide +kernel
theorem test_crc8_parallel : resultOf (exec .crc8 { inFlight { snap .crc8 0 1 with poly := 0x31 } [0xBE] with
    impl := .parallel }) = some 0xA0 := by decide
theorem test_crc16 : resultOf (exec .crc16
    (inFlight { snap .crc16 0 9 with poly := 0x1021, init := 0xFFFF } digits)) = some 0x29B1 := by decide +kernel
theorem test_crc16_parallel : resultOf (exec .crc16 { inFlight { snap .crc16 0 1 with poly := 0x1021 } [0x01] with
    impl := .parallel }) = some 0x1021 := by decide
theorem test_crc8le : resultOf (exec .crc8le (inFlight { snap .crc8le 0 1 with poly := 0x8C } [0x01])) =
    some 0x5E := by decide
theorem test_crc8le_empty : resultOf (exec .crc8le
    (inFlight { snap .crc8le 0xFFFFFFFF 0 with poly := 0x8C, init := 0x5A } [])) = some 0x5A := by decide
theorem test_crc16lsb : resultOf (exec .crc16lsb
    (inFlight { snap .crc16lsb 0 9 with poly := 0xA001, init := 0xFFFF } digits)) = some 0x4B37 := by decide +kernel
theorem test_crc16lsb_parallel : resultOf (exec .crc16lsb { inFlight { snap .crc16lsb 0 1 with poly := 0xA001 } [0x01]
    with impl := .parallel }) = some 0xC0C1 := by decide
theorem test_lfsr8 : resultOf (exec .lfsr8
    (inFlight { snap .lfsr8 0 2 with gen := 0x31, key := 0x80 } [0x80, 0x40])) = some 0x74 := by decide
theorem test_lfsr16 : resultOf (exec .lfsr16 (inFlight
    { snap .lfsr16 0 0 with data := 0xDEADBEEF, bits := 32, gen := 0x8810, key := 0xBA95 } [])) =
    some 0xB597 := by decide +kernel
theorem test_lfsr16_low_bits : resultOf (exec .lfsr16 (inFlight
    { snap .lfsr16 0 0 with data := 0x00012345, bits := 16, gen := 0x1021, key := 0xFFFF } [])) =
    some 0x3FF0 := by decide
theorem test_parity8 : resultOf (exec .parity8 (inFlight { snap .parity8 0 0 with data := 0x7F } [])) =
    some 1 := by decide
theorem test_parity8_low_byte : resultOf (exec .parity8 (inFlight { snap .parity8 0 0 with data := 0x100 } [])) =
    some 0 := by decide
theorem test_parityb : resultOf (exec .parityb (inFlight (snap .parityb 0 4) [0x12, 0x34, 0x56, 0x78])) =
    some 1 := by decide
theorem test_xorb : resultOf (exec .xorb (inFlight (snap .xorb 0 3) [0x12, 0x34, 0x56])) = some 0x70 := by decide
theorem test_addb : resultOf (exec .addb (inFlight (snap .addb 0 2) [0x80, 0x80])) = some 0x100 := by decide

/-! ### Vectors of sections 2.6 to 2.8 of 95_test_vectors.md -/

theorem test_issue_accepted : statusAfterIssue 0x22 0 256 0 = 0x01 ∧ statusAfterIssue 0x22 0xFFFFFFFF 0 0 = 0x01 ∧
    statusAfterIssue 0x31 0xFFFFFFFF 0xFFFFFFFF 32 = 0x01 ∧ statusAfterIssue 0x10 0xFFFFFFFF 5 0 = 0x01 := by decide
theorem test_issue_refused : statusAfterIssue 0x22 1 256 0 = 0x18 ∧ statusAfterIssue 0x22 0xFFFFFFFF 1 0 = 0x18 ∧
    statusAfterIssue 0x31 0 0 0x21 = 0x28 ∧ statusAfterIssue 0x24 1 256 0 = 0x38 := by decide
theorem test_issue_dropped : ((inFlight (snap .crc8 0 0) []).access (.write 0x000 .word 0x24)).statusWord = 0x05 := by
  decide
theorem test_status_write : (({ block with ovr := true, err := .illegalCommand }).access
    (.write 0x004 .word 0x04)).statusWord = 0x38 ∧
    (({ block with err := .invalidLength }).access (.write 0x004 .word 0xF0)).statusWord = 0x18 := by decide

theorem test_bus_little_endian :
    responseTo block [.write 0x100000 .word 0x34333231, .read 0x100003 .byte] = some ⟨.ok, some 0x34⟩ ∧
    responseTo block [.write 0x100000 .word 0x34333231, .read 0x100002 .half] = some ⟨.ok, some 0x3433⟩ := by decide
theorem test_bus_error :
    responseTo block [.write 0x100001 .half 0xBEEF] = some ⟨.busErr, none⟩ ∧
    responseTo block [.write 0x100100 .byte 0x55] = some ⟨.busErr, none⟩ ∧
    responseTo { block with cap := 6 } [.write 0x100004 .word 0] = some ⟨.busErr, none⟩ ∧
    responseTo block [.read 0x004 .byte] = some ⟨.busErr, some 0⟩ ∧
    responseTo block [.read 0x001000 .word] = some ⟨.busErr, some 0⟩ := by decide
theorem test_bus_registers :
    responseTo block [.write 0x008 .word 0xFFFFFFFF, .read 0x008 .word] = some ⟨.ok, some 0xFFFF⟩ ∧
    responseTo block [.write 0x01C .word 0x1FF, .read 0x01C .word] = some ⟨.ok, some 0xFF⟩ ∧
    responseTo { block with result := 0x29B1 } [.write 0x028 .word 5, .read 0x028 .word] = some ⟨.ok, some 0x29B1⟩ ∧
    responseTo block [.read 0x02C .word] = some ⟨.ok, some 0x100⟩ ∧
    responseTo block [.read 0x030 .word] = some ⟨.ok, some 0⟩ ∧
    responseTo block [.write 0xFFC .word 0xFFFFFFFF] = some ⟨.ok, none⟩ := by decide
/-- R69: a STATUS read with BUSY = 0 shows the completion, one with BUSY = 1 or a read of CMD does not. -/
theorem test_bus_observed : (({ block with resultUnseen := true }).access (.read 0x004 .word)).resultUnseen = false ∧
    (({ block with resultUnseen := true }).access (.read 0x000 .word)).resultUnseen = true ∧
    (({ inFlight (snap .rev8 0 0) [] with resultUnseen := true }).access (.read 0x004 .word)).resultUnseen = true ∧
    responseTo { block with result := 5, resultUnseen := true } [.read 0x004 .word, .read 0x028 .word] =
      some ⟨.ok, some 5⟩ := by decide
theorem test_bus_uninit : (block.access (.read 0x100009 .byte)).faults = ModelFaults.mk true false := by decide

theorem test_warm_reset : (inFlight (snap .reflect 1 2) [0x01, 0x02, 0xF0, 0x03]).warmReset.mbuf =
    [(0, 0x01), (3, 0x03)] := by decide
theorem test_race_of_read : ((inFlight (snap .reflect 0 3) [0x01, 0xF0, 0x02, 0x03]).access
    (.read 0x100001 .byte)).faults.msgRace = true := by decide
theorem test_no_race_beside_span : ((inFlight (snap .reflect 0 3) [0x01, 0xF0, 0x02, 0x03]).access
    (.write 0x100003 .byte 0x55)).faults = ModelFaults.mk false false := by decide

/-- Encodings of 30_encoding.md section 4 as program P1 lists them. -/
theorem test_assembly : assemble [.sb 8 0x39, .wr .poly 0x1021, .issue .crc16, .clr] =
    [.access (.write 0x100008 .byte 0x39), .access (.write 0x008 .word 0x1021), .access (.write 0x000 .word 0x23),
      .access (.write 0x004 .word 0x0E)] := by decide

/-! ### Witnesses: the hypotheses of each obligation, met together, each clause at a boundary -/

/-- The state after the completion, to name a next state. -/
def after (o : Host.Outcome State Fault Refusal) : State :=
  match o with
  | .next t => t
  | .fault _ => block
  | .refused _ => block

/-- The last two cells of MBUF written, and `S` in flight. -/
def topState (S : Snapshot) : State :=
  { block with cmd := S.cmd, mbuf := [(254, 0xBE), (255, 0xEF)], snapshot := some S }

/-- The span 254, 255 of `topState` is written. -/
theorem topState_written (i : Instr) (a : Nat) (h : (snap i 254 2).inSpan a = true) :
    ((topState (snap i 254 2)).mbuf.read a).isSome := by
  have h2 : 254 ≤ a ∧ a < 256 := by simpa [Snapshot.inSpan, snap] using h
  obtain rfl | rfl : a = 254 ∨ a = 255 := by omega
  all_goals rfl

/-- A span that ends at MSG_CAP is valid. -/
theorem topState_valid (i : Instr) : (snap i 254 2).validFor i 256 :=
  ⟨fun _ _ => show 254 + 2 ≤ 256 by decide, fun _ => show 0 ≤ 32 by decide⟩

theorem witness_DecodeEncodeAgree : Instr.wellFormed .crc16lsb = true ∧ decode 0x27 = .ok .crc16lsb := by decide

theorem witness_IllegalWordsAreRefused : block.busy = false ∧ decode 0x24 = .error .noLsbFirstWidth ∧
    decode 0x00000100 = .error .reservedField := by decide

theorem witness_ByteCommandsWriteTheirResults : (inFlight (snap .rev8 0 0) []).snapshot = some (snap .rev8 0 0) ∧
    (snap .rev8 0 0).raced = false := by decide

theorem witness_ReflectRewritesItsSpan : (topState (snap .reflect 254 2)).snapshot = some (snap .reflect 254 2) ∧
    (snap .reflect 254 2).raced = false ∧ (snap .reflect 254 2).validFor .reflect (topState (snap .reflect 254 2)).cap ∧
    ∀ a, (snap .reflect 254 2).inSpan a = true → ((topState (snap .reflect 254 2)).mbuf.read a).isSome :=
  ⟨rfl, rfl, topState_valid .reflect, topState_written .reflect⟩

theorem witness_ReflectionLaws :
    let s := topState (snap .reflect 254 2)
    let t := after (exec .reflect s)
    (∀ a, (snap .reflect 254 2).inSpan a = true → (s.mbuf.read a).isSome) ∧
      (snap .reflect 254 2).validFor .reflect s.cap ∧ exec .reflect s = .next t ∧
      (∃ u, exec .reflect { t with snapshot := some (snap .reflect 254 2) } = .next u) ∧
      (snap .reflect 254 2).cells s.mbuf = ([0xBE, 0xEF] : List Byte).map some :=
  ⟨topState_written .reflect, topState_valid .reflect, rfl, ⟨_, rfl⟩, by decide⟩

theorem witness_ShiftRegisterStepsAsStated : 0 < 1 ∧ stepMsb 0#1 1#1 true = 0 := by decide

theorem witness_CrcCommandsWriteTheRemainder : (topState (snap .crc4 254 2)).snapshot = some (snap .crc4 254 2) ∧
    (snap .crc4 254 2).raced = false ∧ (snap .crc4 254 2).validFor .crc4 (topState (snap .crc4 254 2)).cap ∧
    (snap .crc4 254 2).cells (topState (snap .crc4 254 2)).mbuf = ([0xBE, 0xEF] : List Byte).map some :=
  ⟨rfl, rfl, topState_valid .crc4, by decide⟩

/-- With MSG_LEN = 0 any base is valid, and the message is empty. -/
theorem witness_CrcCommandsWriteTheRemainder_empty : (snap .crc16 0xFFFFFFFF 0).validFor .crc4 256 ∧
    (snap .crc16 0xFFFFFFFF 0).cells block.mbuf = ([] : List Byte).map some :=
  ⟨⟨fun _ h => absurd rfl h, fun h => by cases h⟩, rfl⟩

theorem witness_ParallelCrcEqualsSerial : 4 ∈ [4, 7, 8, 16] ∧ 16 ∈ [4, 7, 8, 16] ∧ 8 ∈ [8, 16] ∧ 16 ∈ [8, 16] := by
  decide

theorem witness_CrcIsPolynomialRemainder : 0 < 4 ∧ crcMsb 0x3#4 0xF#4 [] = 0xF := by decide

theorem witness_CrcIsAffine : ([0x12, 0x34] : List Byte).length = ([0x00, 0xFF] : List Byte).length := by decide

theorem witness_DigestLaws : [true, false].length = [false, false].length := by decide

theorem witness_Lfsr8WritesTheDigest : (topState (snap .lfsr8 254 2)).snapshot = some (snap .lfsr8 254 2) ∧
    (snap .lfsr8 254 2).raced = false ∧ (snap .lfsr8 254 2).validFor .lfsr8 (topState (snap .lfsr8 254 2)).cap ∧
    (snap .lfsr8 254 2).cells (topState (snap .lfsr8 254 2)).mbuf = ([0xBE, 0xEF] : List Byte).map some :=
  ⟨rfl, rfl, topState_valid .lfsr8, by decide⟩

theorem witness_Lfsr16WritesTheDigest :
    let S := { snap .lfsr16 0 0 with bits := 32 }
    (inFlight S []).snapshot = some S ∧ S.raced = false ∧ S.bits.toNat ≤ 32 := by decide

theorem witness_ReductionCommandsWriteTheirResults : (topState (snap .addb 254 2)).snapshot = some (snap .addb 254 2) ∧
    (snap .addb 254 2).raced = false ∧ (snap .addb 254 2).validFor .addb (topState (snap .addb 254 2)).cap ∧
    (snap .addb 254 2).cells (topState (snap .addb 254 2)).mbuf = ([0xBE, 0xEF] : List Byte).map some :=
  ⟨rfl, rfl, topState_valid .addb, by decide⟩

theorem witness_ReductionsAsStated : digits.length ≤ 2 ^ 20 := by decide

theorem witness_ReductionLaws : ([0x12, 0x34] : List Byte).Perm [0x34, 0x12] := by decide

/-- Valid commands: an UNINIT message, and a raced one. -/
theorem witness_EveryValidatedCommandCompletes :
    let S := snap .crc8 255 1
    let R := { snap .lfsr16 0xFFFFFFFF 1 with bits := 32, raced := true }
    ((inFlight S []).snapshot = some S ∧ S.validFor .crc8 block.cap ∧
      S.inSpan 255 = true ∧ (inFlight S []).mbuf.read 255 = none) ∧
    ((inFlight R []).snapshot = some R ∧ R.validFor .lfsr16 block.cap) :=
  ⟨⟨rfl, ⟨fun _ _ => by decide, fun h => by cases h⟩, by decide, rfl⟩,
    rfl, ⟨fun h => absurd h (by decide), fun _ => by decide⟩⟩

/-- Each clause just past its bound: nothing in flight, BASE + LEN = MSG_CAP + 1, 33 bits. -/
theorem witness_UnvalidatedCommandsStop :
    block.snapshot = none ∧
    ((inFlight (snap .addb 255 2) []).snapshot = some (snap .addb 255 2) ∧ readsMessage .addb = true ∧
      (snap .addb 255 2).len.toNat ≠ 0 ∧
      block.cap < (snap .addb 255 2).base.toNat + (snap .addb 255 2).len.toNat) ∧
    32 < ({ snap .lfsr16 0 0 with bits := 33 }).bits.toNat := by decide

theorem witness_ResultFitsItsWidth : resultWidth .crc4 = some 4 ∧
    (∃ t, exec .crc4 (topState (snap .crc4 254 2)) = .next t) ∧
    ∃ t, exec .reflect (topState (snap .reflect 254 2)) = .next t :=
  ⟨rfl, ⟨_, rfl⟩, _, rfl⟩

/-- Without and with a race, and REFLECT. -/
theorem witness_CompletionTouchesOnlyItsSpan :
    (∃ t, exec .xorb (topState (snap .xorb 254 2)) = .next t) ∧
    (∃ t, exec .xorb (topState { snap .xorb 254 2 with raced := true }) = .next t) ∧
    (∃ t, exec .reflect (topState (snap .reflect 253 3)) = .next t) ∧
    (snap .xorb 254 2).raced = false ∧ (snap .reflect 253 3).inSpan 253 = true ∧
    (snap .xorb 254 2).inSpan 253 = false :=
  ⟨⟨_, rfl⟩, ⟨_, rfl⟩, ⟨_, rfl⟩, rfl, by decide, by decide⟩

/-- CRC8 with POLY = 0 over the UNINIT cell 0: every filling gives 0. -/
theorem witness_UninitResultOpenWhenItDepends_agree :
    let S := snap .crc8 0 1
    let s := inFlight S []
    S.raced = false ∧ readsMessage .crc8 = true ∧ resultWidth .crc8 = some 8 ∧ (∃ t, exec .crc8 s = .next t) ∧
      (∀ m₁ m₂ u₁ u₂, s.mbuf.fillsSpan m₁ S → s.mbuf.fillsSpan m₂ S →
        exec .crc8 { s with mbuf := m₁ } = .next u₁ → exec .crc8 { s with mbuf := m₂ } = .next u₂ →
        u₁.result = u₂.result) ∧
      ∃ m u, s.mbuf.fillsSpan m S ∧ exec .crc8 { s with mbuf := m } = .next u := by
  intro S s
  have key : ∀ m u, s.mbuf.fillsSpan m S → exec .crc8 { s with mbuf := m } = .next u → u.result = 0 := by
    intro m u hm hu
    obtain ⟨b, hb⟩ := Option.isSome_iff_exists.1 (hm 0 (by decide)).1
    have hc : S.cells m = [b].map some := by
      show [m.read 0] = _
      rw [hb]
      rfl
    have he := overMessage_eq (s := { s with mbuf := m }) (S := S) (fun S => crcMsb (S.polyOf 8) (S.initOf 8)) rfl rfl
    have ht : u = _ := Host.Outcome.next.inj (hu.symm.trans he)
    have h0 : ∀ bits : List Bool, bits.foldl (stepMsb 0#8) 0#8 = 0#8 := by
      have h1 : ∀ b : Bool, stepMsb 0#8 0#8 b = 0#8 := by decide
      intro bits
      induction bits with
      | nil => rfl
      | cons b bs ih => rw [List.foldl_cons, h1, ih]
    have hz : ∀ b : Byte, crcMsb 0#8 0#8 [b] = 0 := fun b => h0 _
    rw [ht, hc, State.completeValue_written _ rfl]
    show (crcMsb 0#8 0#8 [b]).setWidth 32 = 0
    rw [hz]
    rfl
  refine ⟨rfl, rfl, rfl, ⟨_, rfl⟩, ?_, [(0, 0)], _, ?_, rfl⟩
  · intro m₁ m₂ u₁ u₂ h₁ h₂ e₁ e₂
    rw [key m₁ u₁ h₁ e₁, key m₂ u₂ h₂ e₂]
  · intro a ha
    have h0 : a = 0 := by
      have : a < 1 := by simpa [Snapshot.inSpan, S, snap] using ha
      omega
    subst h0
    exact ⟨rfl, fun h => by cases h⟩

/-- XORB over the UNINIT cell 0: two fillings give two results. -/
theorem witness_UninitResultOpenWhenItDepends_differ :
    let S := snap .xorb 0 1
    let s := inFlight S []
    S.raced = false ∧ readsMessage .xorb = true ∧ resultWidth .xorb = some 8 ∧ (∃ t, exec .xorb s = .next t) ∧
      ∃ m₁ m₂ u₁ u₂, s.mbuf.fillsSpan m₁ S ∧ s.mbuf.fillsSpan m₂ S ∧
        exec .xorb { s with mbuf := m₁ } = .next u₁ ∧ exec .xorb { s with mbuf := m₂ } = .next u₂ ∧
        u₁.result ≠ u₂.result := by
  intro S s
  have fill : ∀ b : Byte, s.mbuf.fillsSpan [(0, b)] S := by
    intro b a ha
    have h0 : a = 0 := by
      have : a < 1 := by simpa [Snapshot.inSpan, S, snap] using ha
      omega
    subst h0
    exact ⟨rfl, fun h => by cases h⟩
  exact ⟨rfl, rfl, rfl, ⟨_, rfl⟩, [(0, 0)], [(0, 1)], _, _, fill 0, fill 1, rfl, rfl, by decide⟩

theorem witness_RacedResultIsFree :
    let S := { snap .crc16 254 2 with raced := true }
    (topState S).snapshot = some S ∧ S.raced = true ∧ S.validFor .crc16 block.cap ∧ resultWidth .crc16 = some 16 :=
  ⟨rfl, rfl, ⟨fun _ _ => by decide, fun h => by cases h⟩, rfl⟩

/-- The states differ in RESULT, IMPL, a cell beside the span, an ignored operand and an ignored operand bit. -/
theorem witness_ResultDependsOnlyOnOperands :
    let S := { snap .crc4 0 1 with poly := 0x3 }
    let S' := { snap .crc4 0 1 with poly := 0x13, gen := 5 }
    let s := inFlight S [0x31]
    let s' := { inFlight S' [0x31, 0x32] with result := 7, impl := .parallel }
    resultWidth .crc4 = some 4 ∧ s.snapshot = some S ∧ s'.snapshot = some S' ∧ S.raced = false ∧ S'.raced = false ∧
      S.sameOperands .crc4 S' ∧
      (readsMessage .crc4 = true → ∀ a, S.inSpan a = true →
        (s.mbuf.read a).isSome ∧ s'.mbuf.read a = s.mbuf.read a) ∧
      (∃ t, exec .crc4 s = .next t) ∧ ∃ t', exec .crc4 s' = .next t' := by
  intro S S' s s'
  refine ⟨rfl, rfl, rfl, rfl, rfl, ⟨by decide, by decide, rfl, rfl⟩, ?_, ⟨_, rfl⟩, _, rfl⟩
  intro _ a ha
  have h0 : a = 0 := by
    have : a < 1 := by simpa [Snapshot.inSpan, S, snap] using ha
    omega
  subst h0
  exact ⟨rfl, rfl⟩

/-- The commands of R202 that read a message. -/
def messageCommands : List Instr :=
  [.reflect, .crc4, .crc7, .crc8, .crc8le, .crc16, .crc16lsb, .lfsr8, .parityb, .xorb, .addb]

/-- An illegal word, CRC8 with a span up to MSG_CAP + 1 and up to MSG_CAP, LFSR16 with 33 and with 32 bits. -/
theorem witness_IssueValidatesAndCaptures :
    let s (base len : Word) (bits : BitVec 8) : State := { block with msgBase := base, msgLen := len, bits := bits }
    (∀ base len bits, (s base len bits).busy = false) ∧ decode 0x25 = .error .noLsbFirstWidth ∧
    (decode 0x22 = .ok .crc8 ∧ Instr.crc8 ∈ messageCommands ∧ (s 1 256 0).msgLen.toNat ≠ 0 ∧
      (s 1 256 0).cap < (s 1 256 0).msgBase.toNat + (s 1 256 0).msgLen.toNat) ∧
    ¬ (s 0 256 0).cap < (s 0 256 0).msgBase.toNat + (s 0 256 0).msgLen.toNat ∧
    decode 0x31 = .ok .lfsr16 ∧ Instr.lfsr16 ∉ messageCommands ∧
    32 < (s 0 0 33).bits.toNat ∧ ¬ 32 < (s 0 0 32).bits.toNat :=
  ⟨fun _ _ _ => rfl, by decide⟩

theorem witness_CommandWhileBusyIsDropped : (inFlight (snap .rev8 0 0) []).busy = true := by decide

theorem witness_CommandInFlightIgnoresRegisterWrites :
    (topState (snap .xorb 254 2)).snapshot = some (snap .xorb 254 2) ∧
    ∃ t, exec .xorb (topState (snap .xorb 254 2)) = .next t := ⟨rfl, _, rfl⟩

/-- A completion, a reset, and an accepted command change STATUS. -/
theorem witness_FlagsChangeOnlyAtNamedEvents :
    (∃ t, step (inFlight (snap .rev8 0 0) []) = .next t ∧
      t.statusWord ≠ (inFlight (snap .rev8 0 0) []).statusWord) ∧
    (∃ t, step { block with done := true, schedule := [.warmReset] } = .next t ∧
      t.statusWord ≠ ({ block with done := true, schedule := [.warmReset] }).statusWord) ∧
    (∃ t, step { block with program := [.access (.write 0x000 .word 0x10)] } = .next t ∧
      t.statusWord ≠ ({ block with program := [.access (.write 0x000 .word 0x10)] }).statusWord) :=
  ⟨⟨_, rfl, by decide⟩, ⟨_, rfl, by decide⟩, _, rfl, by decide⟩

theorem witness_RegisterReadsReturnTheirFields :
    ((0x02C : Offset), BitVec.ofNat 32 block.cap) ∈ [((0x02C : Offset), BitVec.ofNat 32 block.cap)] ∧
    (block.busy = false ∧ block.resultUnseen = false) ∧ (inFlight (snap .rev8 0 0) []).busy = true ∧
    (after (exec .rev8 (inFlight (snap .rev8 0 0) []))).resultUnseen = true ∧
    (after (exec .rev8 (inFlight (snap .rev8 0 0) []))).busy = false := by decide

/-- The first and the last reserved offset. -/
theorem witness_ReservedBitsAndOffsets :
    ((0x01C : Offset), (0xFF : Word)) ∈ [((0x004 : Offset), (0xFF : Word)), (0x014, 0xFFFF), (0x01C, 0xFF)] ∧
    (0x030 ≤ (0x030 : Offset).toNat ∧ (0x030 : Offset).toNat ≤ 0xFFC ∧ (0x030 : Offset).toNat % 4 = 0) ∧
    (0x030 ≤ (0xFFC : Offset).toNat ∧ (0xFFC : Offset).toNat ≤ 0xFFC ∧ (0xFFC : Offset).toNat % 4 = 0) := by decide

theorem witness_ReadOnlyRegistersIgnoreWrites : block.busy = false ∧ block.resultUnseen = false := by decide

theorem witness_OperandRegistersHoldWhatTheHostWrote :
    ((0x01C : Offset), (0xFF : Word)) ∈ [((0x024 : Offset), (0xFFFFFFFF : Word)), (0x01C, 0xFF)] ∧
    ∃ t, exec .rev8 (inFlight (snap .rev8 0 0) []) = .next t := ⟨by decide, _, rfl⟩

/-- BUSERR past each bound: misaligned, the first and last unmapped word below the message window, the first byte past
MBUF, a narrow register access. -/
theorem witness_BusErrorsHaveNoEffect_bad :
    (0x100001 : Offset).toNat % 2 ≠ 0 ∧
    (∃ j, j < 4 ∧ 0x001000 ≤ (0x001000 : Offset).toNat + j ∧ (0x001000 : Offset).toNat + j < 0x100000) ∧
    (∃ j, j < 4 ∧ 0x001000 ≤ (0x0FFFFC : Offset).toNat + j ∧ (0x0FFFFC : Offset).toNat + j < 0x100000) ∧
    (∃ j, j < 1 ∧ 0x100000 + block.cap ≤ (0x100100 : Offset).toNat + j) ∧
    ((0xFFE : Offset).toNat < 0x001000 ∧ 2 ≠ 4) :=
  ⟨by decide, ⟨0, by decide⟩, ⟨3, by decide⟩, ⟨0, by decide⟩, by decide⟩

/-- No BUSERR at each bound: the last register word, the first cell, the last word of MBUF. -/
theorem witness_BusErrorsHaveNoEffect_good :
    ([(0xFFC, 4), (0x100000, 1), (0x1000FC, 4)] : List (Offset × Nat)).all fun x => decide
      (¬ (x.1.toNat % x.2 ≠ 0 ∨
        (∃ j, j < x.2 ∧ ((0x001000 ≤ x.1.toNat + j ∧ x.1.toNat + j < 0x100000) ∨
          0x100000 + block.cap ≤ x.1.toNat + j)) ∨
        (x.1.toNat < 0x001000 ∧ x.2 ≠ 4))) := by decide

/-- The last two cells, read while XORB runs over them: no race. -/
theorem witness_MessageReadIsLittleEndian :
    let s := topState (snap .xorb 254 2)
    (0x1000FE : Offset).toNat = 0x100000 + 254 ∧ (0x1000FE : Offset).toNat % Size.half.bytes = 0 ∧
      254 + Size.half.bytes ≤ s.cap ∧ ([0xBE, 0xEF] : List Byte).length = Size.half.bytes ∧
      (∀ j, j < Size.half.bytes → s.mbuf.read (254 + j) = ([0xBE, 0xEF] : List Byte)[j]?) ∧
      ¬ s.races false 254 Size.half.bytes := by
  refine ⟨by decide, by decide, by decide, by decide, by decide, ?_⟩
  rintro ⟨S, hS, -, h | h⟩
  · cases h
  · obtain rfl := Option.some.inj hS
    cases h

/-- The cell just below the span of the command in flight. -/
theorem witness_MessageWriteIsLittleEndian :
    let s := topState (snap .xorb 254 2)
    (0x1000FD : Offset).toNat = 0x100000 + 253 ∧ (0x1000FD : Offset).toNat % Size.byte.bytes = 0 ∧
      253 + Size.byte.bytes ≤ s.cap ∧ ¬ s.races true 253 Size.byte.bytes := by
  refine ⟨by decide, by decide, by decide, ?_⟩
  rintro ⟨S, hS, ⟨j, hj, h, -⟩, -⟩
  obtain rfl := Option.some.inj hS
  have h1 : j < 1 := hj
  have h2 : 254 ≤ 253 + j := h
  omega

/-- A word below the span of the command in flight. -/
theorem witness_StoreThenLoadReturnsValue :
    let s := topState (snap .reflect 254 2)
    (0x1000F8 : Offset).toNat = 0x100000 + 248 ∧ (0x1000F8 : Offset).toNat % Size.word.bytes = 0 ∧
      248 + Size.word.bytes ≤ s.cap ∧ ¬ s.races true 248 Size.word.bytes ∧ s.busy = true := by
  refine ⟨by decide, by decide, by decide, ?_, rfl⟩
  rintro ⟨S, hS, ⟨j, hj, h, -⟩, -⟩
  obtain rfl := Option.some.inj hS
  have h1 : j < 4 := hj
  have h2 : 254 ≤ 248 + j := h
  omega

/-- A half-word of which only the upper byte is UNINIT. -/
theorem witness_UninitHostReadRecordsFault :
    let s := { block with mbuf := [(254, 1)] }
    (0x1000FE : Offset).toNat = 0x100000 + 254 ∧ (0x1000FE : Offset).toNat % Size.half.bytes = 0 ∧
      254 + Size.half.bytes ≤ s.cap ∧ ¬ s.races false 254 Size.half.bytes ∧
      ∃ j, j < Size.half.bytes ∧ s.mbuf.read (254 + j) = none := by
  refine ⟨by decide, by decide, by decide, ?_, 1, by decide, rfl⟩
  rintro ⟨S, hS, -⟩
  cases hS

/-- The races: a write touches the last cell of XORB's span, a read touches REFLECT's. -/
theorem race_write : (topState (snap .xorb 254 2)).races true 255 1 :=
  ⟨_, rfl, ⟨0, by decide, by decide, by decide⟩, .inl rfl⟩

theorem race_read : (topState (snap .reflect 254 2)).races false 252 4 :=
  ⟨_, rfl, ⟨2, by decide, by decide, by decide⟩, .inr (by decide)⟩

/-- No race: a read of XORB's span, a write just past REFLECT's. -/
theorem no_race_read : ¬ (topState (snap .xorb 254 2)).races false 254 2 := by
  rintro ⟨S, hS, -, h | h⟩
  · cases h
  · obtain rfl := Option.some.inj hS
    cases h

theorem no_race_write : ¬ (topState (snap .reflect 253 2)).races true 255 1 := by
  rintro ⟨S, hS, ⟨j, hj, -, h⟩, -⟩
  obtain rfl := Option.some.inj hS
  have h2 : 255 + j < 255 := h
  omega

theorem witness_RaceRecordsMsgRace :
    ((0x1000FF : Offset).toNat = 0x100000 + 255 ∧ (0x1000FF : Offset).toNat % Size.byte.bytes = 0 ∧
      255 + Size.byte.bytes ≤ (topState (snap .xorb 254 2)).cap) ∧
    ((0x1000FC : Offset).toNat = 0x100000 + 252 ∧ (0x1000FC : Offset).toNat % Size.word.bytes = 0 ∧
      252 + Size.word.bytes ≤ (topState (snap .reflect 254 2)).cap) ∧
    (topState (snap .xorb 254 2)).races true 255 Size.byte.bytes ∧
    (topState (snap .reflect 254 2)).races false 252 Size.word.bytes ∧
    ¬ (topState (snap .xorb 254 2)).races false 254 Size.half.bytes ∧
    ¬ (topState (snap .reflect 253 2)).races true 255 Size.byte.bytes :=
  ⟨by decide, by decide, race_write, race_read, no_race_read, no_race_write⟩

/-- A racing write into the span: the cell 253 beside it, the cell 254 in it. -/
theorem witness_MessageAccessFrame : (0x1000FF : Offset).toNat = 0x100000 + 255 ∧
    (topState (snap .xorb 254 2)).races true 255 Size.byte.bytes ∧ (253 < 255 ∨ 255 + Size.byte.bytes ≤ 253) ∧
    (∀ S, (topState (snap .xorb 254 2)).snapshot = some S →
      (topState (snap .xorb 254 2)).races true 255 Size.byte.bytes → S.inSpan 253 = false) := by
  refine ⟨by decide, race_write, by decide, ?_⟩
  intro S hS _
  obtain rfl := Option.some.inj hS
  decide

theorem witness_ReadsHaveNoSideEffects :
    ∀ a, (0x1000FE : Offset).toNat = 0x100000 + a → ¬ (topState (snap .xorb 254 2)).races false a Size.half.bytes := by
  intro a h
  have h1 : (0x1000FE : Offset).toNat = 0x100000 + 254 := by decide
  obtain rfl : a = 254 := by omega
  exact no_race_read

/-- A reset with nothing in flight, with XORB and with REFLECT in flight over a written cell. -/
theorem witness_WarmResetClearsRegisters :
    let s (S : Option Snapshot) : State := { block with mbuf := [(254, 1)], snapshot := S, schedule := [.warmReset] }
    (∀ S, (s S).schedule = .warmReset :: []) ∧ decode (snap .reflect 254 2).cmd = .ok .reflect ∧
      (snap .reflect 254 2).inSpan 254 = true ∧ decode (snap .xorb 254 2).cmd = .ok .xorb :=
  ⟨fun _ => rfl, by decide, by decide, by decide⟩

theorem witness_StepRunsTheDecodedCommand :
    let s := { topState (snap .xorb 254 2) with schedule := [.engine] }
    s.snapshot = some (snap .xorb 254 2) ∧ decode (snap .xorb 254 2).cmd = .ok .xorb ∧
      s.schedule = .engine :: [] ∧ (topState (snap .xorb 254 2)).schedule = [] :=
  ⟨rfl, by decide, rfl, rfl⟩

theorem witness_HostTurnPerformsTheNextAccess :
    let s (p : List HostOp) : State := { block with program := p, schedule := [.host] }
    (∀ p, (s p).schedule = .host :: []) ∧
      (s [.access (.read 0x028 .word)]).program = .access (.read 0x028 .word) :: [] ∧
      (s [.wait]).program = .wait :: [] ∧ (s []).program = [] ∧
      (block.schedule = [] ∧ ([] : List Turn) = [] ∧ block.snapshot = none) :=
  ⟨fun _ => rfl, rfl, rfl, rfl, rfl, rfl, rfl⟩

/-- A state with XORB in flight over the last cells, one of them UNINIT, meets the invariant. -/
theorem inv_of_xorb : State.Inv
    { block with cmd := 0x42, mbuf := [(254, 1)], snapshot := some (snap .xorb 254 2), program := [.wait] } where
  capPositive := by decide
  capBound := by decide
  memoryCanonical := by decide
  memoryInside := by decide
  inFlightValidated := by
    intro S hS
    obtain rfl := Option.some.inj hS
    exact ⟨⟨.xorb, by decide, fun _ _ => by decide, fun h => by cases h⟩, by decide⟩
  busyQuiet := by decide
  doneNoError := by decide

theorem witness_StepKeepsTheInvariant : ∃ s t : State, s.Inv ∧ step s = .next t ∧ t.done = true :=
  ⟨_, _, inv_of_xorb, rfl, rfl⟩

theorem witness_StepNeverStops : ∃ s : State, s.Inv ∧ s.busy = true := ⟨_, inv_of_xorb, rfl⟩

theorem witness_FaultsStickAndCapacityStays : ∃ t,
    step { block with faults := ModelFaults.mk true true, schedule := [.warmReset] } = .next t := ⟨_, rfl⟩

/-- A run ends: one access, then nothing in flight. -/
theorem witness_EndsIn : ∃ t, EndsIn 1 { block with program := [.access (.read 0x004 .word)] } t :=
  ⟨_, rfl, rfl, rfl, rfl⟩

theorem witness_FaultedRunsNeverEnd : ¬ State.noModelFault { block with faults := ModelFaults.mk true false } := by
  unfold State.noModelFault
  decide

theorem witness_ResultChangesOnlyAtCompletionOrReset :
    (∃ t, step (inFlight { snap .rev8 0 0 with data := 1 } []) = .next t ∧
      t.result ≠ (inFlight { snap .rev8 0 0 with data := 1 } []).result) ∧
    ∃ t, step { block with result := 5, schedule := [.warmReset] } = .next t ∧ t.result ≠ 5 :=
  ⟨⟨_, rfl, by decide⟩, _, rfl, by decide⟩

theorem witness_PollingTerminates : ∃ s : State, s.Inv ∧ s.program = .wait :: [] ∧ s.busy = true :=
  ⟨_, inv_of_xorb, rfl, rfl⟩

theorem witness_HostStatementsAreTheirAccesses : 0xFFFFF < 2 ^ 20 ∧ (msgOffset 0xFFFFF).toNat = 0x1FFFFF := by decide

theorem witness_PseudoStatementsExpand :
    (CrcFunction.crc16lsb, Instr.crc16lsb) ∈ [(CrcFunction.crc4, Instr.crc4), (.crc16lsb, .crc16lsb)] := by decide

end Sys2Proof.Tests
end

/-! What validation checks, in the arithmetic of R202. -/

namespace Sys2Proof.Machine

theorem spanInMbuf_iff (base len : Word) (cap : Nat) :
    spanInMbuf base len cap = true ↔ (len.toNat ≠ 0 → base.toNat + len.toNat ≤ cap) := by
  have hlen : len = 0 ↔ len.toNat = 0 := BitVec.toNat_inj.symm
  simp only [spanInMbuf, Bool.or_eq_true, beq_iff_eq, decide_eq_true_eq, hlen]
  exact Decidable.or_iff_not_imp_left

theorem bitCountOk_iff (bits : BitVec 8) : bitCountOk bits = true ↔ bits.toNat ≤ 32 := decide_eq_true_iff

/-- Issue captures a validated snapshot exactly because Validate found no error (R201, R202). -/
theorem State.capture_validated {s : State} {v : Word} (h : s.validate v = .none) :
    (s.capture v).validated s.cap := by
  obtain ⟨i, hi, hspan, hbits⟩ := validate_none h
  exact ⟨i, hi, fun hr => (spanInMbuf_iff _ _ _).1 (hspan hr), fun hl => (bitCountOk_iff _).1 (hbits hl)⟩

/-- REFLECT over an empty span writes no cell, and over any other stays below MSG_CAP (R61, R104). -/
theorem State.reflectSpan_within {s : State} {S : Snapshot} (h : s.mbuf.within s.cap)
    (hspan : spanInMbuf S.base S.len s.cap = true) : (s.reflectSpan S).mbuf.within s.cap := by
  rw [State.reflectSpan_mbuf]
  rcases Nat.eq_zero_or_pos S.len.toNat with hlen | hlen
  · rw [hlen]
    exact h
  · exact reflectCells_within _ h _ _ ((spanInMbuf_iff _ _ _).1 hspan hlen.ne')

end Sys2Proof.Machine

/-! The invariant under each operation of the host, the engine and the reset input. It reads six fields of the state:
CMD, DONE, ERR, MSG_CAP, MBUF and the snapshot. An operation that writes none of the six keeps it by `{ h with }`;
for any other the lemma below gives the fields the operation touches. -/

namespace Sys2Proof.Machine

variable {s t : State}

theorem State.Inv.turned (h : s.Inv) : s.turned.Inv := { h with }

theorem State.Inv.withProgram (h : s.Inv) (ops : List HostOp) : State.Inv { s with program := ops } := { h with }

theorem State.Inv.withDraws (h : s.Inv) (k : Nat) : State.Inv { s with draws := k } := { h with }

theorem State.Inv.respond (h : s.Inv) (r : BusResp) (d : Option Word) : (s.respond r d).Inv := { h with }

theorem State.Inv.observed (h : s.Inv) (r : Reg) : (s.observed r).Inv := { h with }

theorem State.Inv.recordUninit (h : s.Inv) (b : Bool) : (s.recordUninit b).Inv := { h with }

theorem State.Inv.dropCommand (h : s.Inv) : s.dropCommand.Inv := { h with }

theorem State.Inv.writeResult (h : s.Inv) {w : Nat} (S : Snapshot) (cs : List (Option Byte))
    (f : List Byte → BitVec w) : (s.writeResult S cs f).Inv := { h with }

/-! ### The host's turn -/

/-- A STATUS write only clears DONE and ERR (R27). -/
theorem State.Inv.writeStatus (h : s.Inv) (v : Word) : (s.writeStatus v).Inv := by
  have herr : s.err = .none → (s.writeStatus v).err = .none := by simp +contextual
  refine { h with busyQuiet := fun hb => ?_, doneNoError := fun hd => herr (h.doneNoError ?_) }
  · obtain ⟨hdone, he⟩ := h.busyQuiet hb
    exact ⟨by simp [hdone], herr he⟩
  · rw [State.writeStatus_done, Bool.and_eq_true] at hd
    exact hd.1

theorem State.Inv.acceptCommand (h : s.Inv) {v : Word} (hv : s.validate v = .none) : (s.acceptCommand v).Inv where
  __ := h
  inFlightValidated := by
    rintro S ⟨⟩
    exact ⟨State.capture_validated hv, rfl⟩
  busyQuiet := fun _ => ⟨rfl, rfl⟩
  doneNoError := fun _ => rfl

theorem State.Inv.refuseCommand (h : s.Inv) (hb : s.busy = false) (v : Word) (e : ErrCode) :
    (s.refuseCommand v e).Inv where
  __ := h
  inFlightValidated := fun S hS => by simp_all [State.busy]
  busyQuiet := fun hb' => absurd hb' (Bool.eq_false_iff.1 hb)
  doneNoError := nofun

theorem State.Inv.writeCmd (h : s.Inv) (v : Word) : (s.writeCmd v).Inv := by
  rcases writeCmd_cases s v with ⟨_, heq⟩ | ⟨_, hv, heq⟩ | ⟨hb, _, heq⟩
  · exact heq ▸ h.dropCommand
  · exact heq ▸ h.acceptCommand hv
  · exact heq ▸ h.refuseCommand hb v _

theorem State.Inv.writeReg (h : s.Inv) (r : Reg) (v : Word) : (s.writeReg r v).Inv := by
  cases r with
  | cmd => exact h.writeCmd v
  | status => exact h.writeStatus v
  | poly | init | gen | key | data | bits | msgBase | msgLen => exact { h with }
  | result | cap => exact h

/-- A race marks the snapshot and changes contents of written cells, never which cells are written (R240). -/
theorem State.Inv.recordRace (h : s.Inv) {S : Snapshot} (hS : s.snapshot = some S) : (s.recordRace S).Inv where
  __ := h
  memoryCanonical := Memory.scrambleSpan_wf h.memoryCanonical _ _
  memoryInside := Memory.scrambleSpan_within h.memoryInside _ _
  inFlightValidated := by
    rintro S' ⟨⟩
    exact h.inFlightValidated S hS
  busyQuiet := fun _ => h.busyQuiet (Option.isSome_of_eq_some hS)

theorem State.Inv.readMessage (h : s.Inv) (a n : Nat) : (s.readMessage a n).Inv := by
  rcases readMessage_cases s a n with ⟨k, d, heq, _⟩ | ⟨S, d, hrace, heq⟩
  · exact heq ▸ ((h.recordUninit _).withDraws k).respond _ _
  · have hS := (racingSnapshot_some hrace).1
    exact heq ▸ (((h.recordUninit _).withDraws _).recordRace hS).respond _ _

theorem State.Inv.writeMessage (h : s.Inv) {a n : Nat} (hn : a + n ≤ s.cap) (v : Word) :
    (s.writeMessage a n v).Inv := by
  have hw : State.Inv { s with mbuf := s.mbuf.writeLE a n v } :=
    { h with
      memoryCanonical := Memory.writeLE_wf n h.memoryCanonical a v
      memoryInside := Memory.writeLE_within n h.memoryInside a v hn }
  unfold State.writeMessage
  split
  · exact (hw.recordRace (racingSnapshot_some ‹_›).1).respond _ _
  · exact hw.respond _ _

theorem AccessEffect.keepsInv (h : s.Inv) (he : AccessEffect s t) : t.Inv := by
  cases he with
  | respond r d => exact h.respond r d
  | unspecifiedResult _ => exact (h.withDraws _).respond _ _
  | readReg r => exact (h.observed r).respond _ _
  | writeReg r v => exact (h.writeReg r v).respond _ _
  | readMessage a n _ => exact h.readMessage a n
  | writeMessage a n v hn => exact h.writeMessage hn v

theorem State.Inv.access (h : s.Inv) (a : Access) : (s.access a).Inv := (access_effect s a).keepsInv h

theorem State.Inv.poll (h : s.Inv) : s.poll.Inv := h.access (.read Reg.status.offset .word)

theorem HostEffect.keepsInv (h : s.Inv) (he : HostEffect s t) : t.Inv := by
  cases he with
  | idle _ => exact h
  | access a ops _ => exact (h.withProgram ops).access a
  | waiting _ _ _ => exact h.poll
  | waited ops _ _ => exact h.poll.withProgram ops

/-! ### The engine's turn -/

/-- DONE is set without an error, since ERR was 0 while the command was in flight (R201, R205). -/
theorem State.Inv.finish (h : s.Inv) {S : Snapshot} (hS : s.snapshot = some S) : (s.finish S).Inv where
  __ := h
  memoryCanonical := by
    rw [State.finish_mbuf]
    split
    · exact Memory.scrambleSpan_wf h.memoryCanonical _ _
    · exact h.memoryCanonical
  memoryInside := by
    rw [State.finish_mbuf]
    split
    · exact Memory.scrambleSpan_within h.memoryInside _ _
    · exact h.memoryInside
  inFlightValidated := nofun
  busyQuiet := nofun
  doneNoError := fun _ => (h.busyQuiet (Option.isSome_of_eq_some hS)).2

theorem State.Inv.completeValue (h : s.Inv) {S : Snapshot} (hS : s.snapshot = some S) {w : Nat}
    (cs : List (Option Byte)) (f : List Byte → BitVec w) : (s.completeValue S cs f).Inv :=
  ((h.recordUninit _).writeResult S cs f).finish hS

theorem State.Inv.reflectSpan (h : s.Inv) {S : Snapshot} (hspan : spanInMbuf S.base S.len s.cap = true) :
    (s.reflectSpan S).Inv where
  __ := h
  memoryCanonical := reflectCells_wf _ h.memoryCanonical _ _
  memoryInside := State.reflectSpan_within h.memoryInside hspan

theorem State.Inv.exec (h : s.Inv) {i : Instr} (he : exec i s = .next t) : t.Inv := by
  obtain ⟨S, hS, hspan, hform⟩ := exec_next he
  rcases hform with ⟨rfl, rfl⟩ | ⟨_, w, cs, f, _, rfl⟩
  · exact (h.reflectSpan (hspan rfl)).finish hS
  · exact h.completeValue hS cs f

/-! ### The reset input and the step -/

theorem State.Inv.warmReset (h : s.Inv) : s.warmReset.Inv where
  __ := h
  memoryCanonical := State.mbufAfterReset_wf h.memoryCanonical
  memoryInside := State.mbufAfterReset_within h.memoryInside
  inFlightValidated := nofun
  busyQuiet := nofun
  doneNoError := nofun

/-- Settles O53: each thing a step can do (`step_next`) keeps the invariant. -/
theorem stepKeepsTheInvariant : Obligations.StepKeepsTheInvariant := by
  intro s t h hstep
  rcases step_next hstep with ⟨_, he⟩ | ⟨_, _, rfl⟩ | ⟨_, S, i, _, _, he⟩ | ⟨_, rfl⟩
  · exact he.keepsInv h.turned
  · exact h.turned
  · exact h.turned.exec he
  · exact h.turned.warmReset

end Sys2Proof.Machine

/-! The byte-wise CRC generators compute the serial remainder (R131), so no CRC result depends on IMPL (R9). -/

namespace Sys2Proof.Machine

/-! ### MSB-first -/

/-- One shift of the byte-wise form is one serial step on the message bit that stands in the top bit; the bits still
to come move up by one place. -/
theorem shiftMsb_xor_topBits {w v n : Nat} (hn : n < w) (p r : BitVec w) (m : BitVec v) :
    shiftMsb p (r ^^^ m.setWidth w <<< (w - (n + 1))) =
      stepMsb p r (m.getLsbD n) ^^^ m.setWidth w <<< (w - n) := by
  have htop : (r ^^^ m.setWidth w <<< (w - (n + 1))).getLsbD (w - 1) = (r.getLsbD (w - 1) ^^ m.getLsbD n) := by
    have h1 : w - 1 < w := by omega
    have h2 : ¬ w - 1 < w - (n + 1) := by omega
    have h3 : w - 1 - (w - (n + 1)) = n := by omega
    simp [h1, h2, h3]
  have hshift : (r ^^^ m.setWidth w <<< (w - (n + 1))) <<< 1 = r <<< 1 ^^^ m.setWidth w <<< (w - n) := by
    rw [BitVec.shiftLeft_xor_distrib, ← BitVec.shiftLeft_add, show w - (n + 1) + 1 = w - n by omega]
  simp only [shiftMsb, stepMsb, htop, hshift]
  split
  · ac_rfl
  · rfl

/-- The low `n` bits of `m`, placed in the top bits of the register, are consumed by `n` shifts. -/
theorem foldl_stepMsb_eq_shiftMsb {w v : Nat} (p : BitVec w) (m : BitVec v) : ∀ (n : Nat) (r : BitVec w), n ≤ w →
    (lowBitsMsbFirst m n).foldl (stepMsb p) r = (shiftMsb p)^[n] (r ^^^ m.setWidth w <<< (w - n)) := by
  intro n
  induction n with
  | zero =>
    intro r _
    simp [lowBitsMsbFirst, BitVec.shiftLeft_eq_zero]
  | succ n ih =>
    intro r hn
    rw [lowBitsMsbFirst, List.foldl_cons, ih _ (by omega), Function.iterate_succ_apply, shiftMsb_xor_topBits hn]

theorem crcMsb_cons {w : Nat} (p i : BitVec w) (b : Byte) (msg : List Byte) :
    crcMsb p i (b :: msg) = crcMsb p ((lowBitsMsbFirst b 8).foldl (stepMsb p) i) msg := by
  simp [crcMsb, msbStream]

theorem crcMsbWide_eq_crcMsb {w : Nat} (hw : 8 ≤ w) (p : BitVec w) (msg : List Byte) :
    ∀ i, crcMsbWide p i msg = crcMsb p i msg := by
  induction msg with
  | nil => exact fun _ => rfl
  | cons b msg ih =>
    intro i
    rw [crcMsb_cons, foldl_stepMsb_eq_shiftMsb p b 8 i hw]
    exact ih _

/-- A register of at most 8 bits held in the top bits of a byte, as the form for W < 8 holds it (R131). -/
def topAligned {w : Nat} (r : BitVec w) : Byte := r.setWidth 8 <<< (8 - w)

theorem getLsbD_topAligned {w : Nat} (hw : w ≤ 8) (r : BitVec w) (k : Nat) :
    (topAligned r).getLsbD k = (decide (8 - w ≤ k) && r.getLsbD (k - (8 - w))) := by
  by_cases hk : k < 8
  · have hin : k - (8 - w) < 8 := by omega
    simp only [topAligned, BitVec.getLsbD_shiftLeft, BitVec.getLsbD_setWidth, hk, hin, decide_true, Bool.true_and]
    simp only [← decide_not, not_lt]
  · have hout : w ≤ k - (8 - w) := by omega
    simp [BitVec.getLsbD_of_ge _ _ (not_lt.1 hk), BitVec.getLsbD_of_ge r _ hout]

/-- Aligning at the top commutes with a serial step: a bit that drops out of the one register drops out of the
other. -/
theorem topAligned_stepMsb {w : Nat} (h0 : 0 < w) (hw : w ≤ 8) (p r : BitVec w) (b : Bool) :
    stepMsb (topAligned p) (topAligned r) b = topAligned (stepMsb p r b) := by
  have htop : (topAligned r).getLsbD (8 - 1) = r.getLsbD (w - 1) := by
    have hin : 8 - w ≤ 7 := by omega
    rw [getLsbD_topAligned hw, show 8 - 1 - (8 - w) = w - 1 by omega]
    simp [hin]
  have hshift : topAligned r <<< 1 = topAligned (r <<< 1) := by
    apply BitVec.eq_of_getLsbD_eq
    intro k hk
    rw [BitVec.getLsbD_shiftLeft, getLsbD_topAligned hw, getLsbD_topAligned hw, BitVec.getLsbD_shiftLeft]
    by_cases hin : 8 - w < k
    · have hk' : ¬ k < 1 ∧ 8 - w ≤ k - 1 ∧ 8 - w ≤ k ∧ k - (8 - w) < w ∧ ¬ k - (8 - w) < 1 := by omega
      rw [show k - (8 - w) - 1 = k - 1 - (8 - w) by omega]
      simp [hk, hk']
    · have hk' : k - (8 - w) < 1 ∧ (¬ k = 0 → ¬ 8 ≤ k - 1 + w) := by omega
      simp +contextual [hk']
  have hxor : topAligned (r <<< 1) ^^^ topAligned p = topAligned (r <<< 1 ^^^ p) := by
    simp [topAligned, BitVec.shiftLeft_xor_distrib]
  simp only [stepMsb, htop, hshift, hxor]
  split <;> rfl

theorem topAligned_foldl_stepMsb {w : Nat} (h0 : 0 < w) (hw : w ≤ 8) (p : BitVec w) (bits : List Bool) :
    ∀ r : BitVec w, bits.foldl (stepMsb (topAligned p)) (topAligned r) = topAligned (bits.foldl (stepMsb p) r) := by
  induction bits with
  | nil => exact fun _ => rfl
  | cons b bits ih =>
    intro r
    rw [List.foldl_cons, List.foldl_cons, topAligned_stepMsb h0 hw, ih]

theorem topAligned_and_mask {w : Nat} (r : BitVec w) :
    topAligned r &&& (BitVec.allOnes w).setWidth 8 <<< (8 - w) = topAligned r := by
  calc topAligned r &&& topAligned (BitVec.allOnes w)
    _ = topAligned (r &&& BitVec.allOnes w) := by
      simp only [topAligned, BitVec.setWidth_and, BitVec.shiftLeft_and_distrib]
    _ = topAligned r := by rw [BitVec.and_allOnes]

theorem ushiftRight_topAligned {w : Nat} (hw : w ≤ 8) (r : BitVec w) :
    (topAligned r >>> (8 - w)).setWidth w = r := by
  apply BitVec.eq_of_getLsbD_eq
  intro k hk
  simp [getLsbD_topAligned hw, hk]

theorem byteMsbNarrow_topAligned {w : Nat} (h0 : 0 < w) (hw : w ≤ 8) (p r : BitVec w) (b : Byte) :
    byteMsbNarrow w (topAligned p) (topAligned r) b = topAligned ((lowBitsMsbFirst b 8).foldl (stepMsb p) r) := by
  have hbyte := foldl_stepMsb_eq_shiftMsb (topAligned p) b 8 (topAligned r) le_rfl
  rw [topAligned_foldl_stepMsb h0 hw] at hbyte
  simp only [Nat.sub_self, BitVec.shiftLeft_zero, BitVec.setWidth_eq] at hbyte
  rw [byteMsbNarrow, ← hbyte, topAligned_and_mask]

theorem crcMsbNarrow_eq_crcMsb {w : Nat} (h0 : 0 < w) (hw : w ≤ 8) (p i : BitVec w) (msg : List Byte) :
    crcMsbNarrow p i msg = crcMsb p i msg := by
  have hfold : ∀ r : BitVec w, msg.foldl (byteMsbNarrow w (topAligned p)) (topAligned r) =
      topAligned (crcMsb p r msg) := by
    induction msg with
    | nil => exact fun _ => rfl
    | cons b msg ih =>
      intro r
      rw [List.foldl_cons, byteMsbNarrow_topAligned h0 hw, ih, crcMsb_cons]
  have h := congrArg (fun r : Byte => (r >>> (8 - w)).setWidth w) (hfold i)
  exact h.trans (ushiftRight_topAligned hw _)

/-- R131 for the MSB-first generator, at every width the block has and every other one above 0. -/
theorem crcMsbBy_eq_crcMsb (impl : Config.Impl) {w : Nat} (h0 : 0 < w) (p i : BitVec w) :
    crcMsbBy impl p i = crcMsb p i := by
  funext msg
  cases impl with
  | serial => rfl
  | parallel =>
    simp only [crcMsbBy]
    split
    · exact crcMsbNarrow_eq_crcMsb h0 (by omega) p i msg
    · exact crcMsbWide_eq_crcMsb (by omega) p msg i

/-! ### LSB-first -/

/-- One shift of the byte-wise form is one serial step on the message bit that stands in bit 0. -/
theorem shiftLsb_xor_lowBits {w v : Nat} (hv : v ≤ w) (p r : BitVec w) (m : BitVec v) :
    shiftLsb p (r ^^^ m.setWidth w) = stepLsb p r (m.getLsbD 0) ^^^ (m >>> 1).setWidth w := by
  have hlow : (r ^^^ m.setWidth w).getLsbD 0 = (r.getLsbD 0 ^^ m.getLsbD 0) := by
    have hin : m.getLsbD 0 = true → 0 < w := fun h => (BitVec.lt_of_getLsbD h).trans_le hv
    simpa using hin
  have hshift : (r ^^^ m.setWidth w) >>> 1 = r >>> 1 ^^^ (m >>> 1).setWidth w := by
    rw [BitVec.ushiftRight_xor_distrib, BitVec.setWidth_ushiftRight hv]
  simp only [shiftLsb, stepLsb, hlow, hshift]
  split
  · ac_rfl
  · rfl

/-- After `n` shifts the register holds the remainder of the low `n` bits of `m`, with the bits still to come beside
it. -/
theorem shiftLsb_iterate {w v : Nat} (hv : v ≤ w) (p r : BitVec w) (m : BitVec v) (n : Nat) :
    (shiftLsb p)^[n] (r ^^^ m.setWidth w) =
      (lowBitsLsbFirst m n).foldl (stepLsb p) r ^^^ (m >>> n).setWidth w := by
  induction n with
  | zero => simp [lowBitsLsbFirst, lowBitsMsbFirst]
  | succ n ih =>
    have hbits : lowBitsLsbFirst m (n + 1) = lowBitsLsbFirst m n ++ [m.getLsbD n] := by
      simp [lowBitsLsbFirst, lowBitsMsbFirst]
    rw [Function.iterate_succ_apply', ih, shiftLsb_xor_lowBits hv, hbits, List.foldl_concat, ← BitVec.shiftRight_add]
    simp

theorem crcLsb_cons {w : Nat} (p i : BitVec w) (b : Byte) (msg : List Byte) :
    crcLsb p i (b :: msg) = crcLsb p ((lowBitsLsbFirst b 8).foldl (stepLsb p) i) msg := by
  simp [crcLsb, lsbStream]

theorem byteLsb_eq_foldl_stepLsb {w : Nat} (hw : 8 ≤ w) (p r : BitVec w) (b : Byte) :
    byteLsb p r b = (lowBitsLsbFirst b 8).foldl (stepLsb p) r := by
  rw [byteLsb, shiftLsb_iterate hw, BitVec.ushiftRight_eq_zero le_rfl]
  simp

/-- R131 for the LSB-first generator, at the widths 8 and 16 of the block and every other one from 8 on. -/
theorem crcLsbBy_eq_crcLsb (impl : Config.Impl) {w : Nat} (hw : 8 ≤ w) (p i : BitVec w) :
    crcLsbBy impl p i = crcLsb p i := by
  funext msg
  cases impl with
  | serial => rfl
  | parallel =>
    change crcLsbWide p i msg = crcLsb p i msg
    induction msg generalizing i with
    | nil => rfl
    | cons b msg ih =>
      rw [crcLsb_cons, ← byteLsb_eq_foldl_stepLsb hw]
      exact ih _

end Sys2Proof.Machine

/-! A completion without a race over written cells: its RESULT is that of its operands and its message bytes, whatever
else the state holds. -/

namespace Sys2Proof.Machine

/-- A stretch of written cells is a message. -/
theorem Memory.exists_message {m : Memory} (n : Nat) : ∀ a, (∀ x, a ≤ x → x < a + n → (m.read x).isSome) →
    ∃ msg : List Byte, m.cells a n = msg.map some := by
  induction n with
  | zero => exact fun _ _ => ⟨[], rfl⟩
  | succ n ih =>
    intro a h
    obtain ⟨b, hb⟩ := Option.isSome_iff_exists.1 (h a le_rfl (by omega))
    obtain ⟨msg, hmsg⟩ := ih (a + 1) fun x h1 h2 => h x (by omega) (by omega)
    exact ⟨b :: msg, by rw [Memory.cells, hb, hmsg, List.map_cons]⟩

section

variable {w : Nat} {s s' t t' : State} {S S' : Snapshot}

theorem overMessage_result {f : Snapshot → List Byte → BitVec w} {msg : List Byte} (hS : s.snapshot = some S)
    (hr : S.raced = false) (hmsg : S.cells s.mbuf = msg.map some) (h : overMessage s f = .next t) :
    t.result = (f S msg).setWidth 32 := by
  obtain ⟨S₁, hS₁, _, rfl⟩ := overMessage_next h
  obtain rfl : S = S₁ := Option.some.inj (hS.symm.trans hS₁)
  rw [hmsg, State.completeValue_written s hr]

theorem overOperands_result {f : Snapshot → BitVec w} (hS : s.snapshot = some S) (hr : S.raced = false)
    (h : overOperands s f = .next t) : t.result = (f S).setWidth 32 := by
  obtain ⟨S₁, hS₁, rfl⟩ := overOperands_next h
  obtain rfl : S = S₁ := Option.some.inj (hS.symm.trans hS₁)
  rw [State.completeValue_operands s hr]

theorem overCountedBits_result {f : Snapshot → BitVec w} (hS : s.snapshot = some S) (hr : S.raced = false)
    (h : overCountedBits s f = .next t) : t.result = (f S).setWidth 32 := by
  obtain ⟨S₁, hS₁, _, rfl⟩ := overCountedBits_next h
  obtain rfl : S = S₁ := Option.some.inj (hS.symm.trans hS₁)
  rw [State.completeValue_operands s hr]

/-- Two spans of the same cells with the same written contents hold one message. -/
theorem Snapshot.exists_common_message {m m' : Memory} (hbase : S.base = S'.base) (hlen : S.len = S'.len)
    (h : ∀ a, S.inSpan a = true → (m.read a).isSome ∧ m'.read a = m.read a) :
    ∃ msg : List Byte, S.cells m = msg.map some ∧ S'.cells m' = msg.map some := by
  have hin : ∀ x, S.base.toNat ≤ x → x < S.base.toNat + S.len.toNat → S.inSpan x = true := by
    simp +contextual [Snapshot.inSpan]
  obtain ⟨msg, hmsg⟩ := Memory.exists_message S.len.toNat S.base.toNat fun x h1 h2 => (h x (hin x h1 h2)).1
  refine ⟨msg, hmsg, ?_⟩
  rw [Snapshot.cells, ← hbase, ← hlen, Memory.cells_congr _ _ fun x h1 h2 => (h x (hin x h1 h2)).2]
  exact hmsg

/-- Commands over one message whose results are one function of it write the same RESULT. -/
theorem overMessage_result_congr {f f' : Snapshot → List Byte → BitVec w} (hS : s.snapshot = some S)
    (hS' : s'.snapshot = some S') (hr : S.raced = false) (hr' : S'.raced = false)
    (hmem : ∀ a, S.inSpan a = true → (s.mbuf.read a).isSome ∧ s'.mbuf.read a = s.mbuf.read a)
    (hspan : S.base = S'.base ∧ S.len = S'.len) (hf : f S = f' S')
    (h : overMessage s f = .next t) (h' : overMessage s' f' = .next t') : t'.result = t.result := by
  obtain ⟨msg, hmsg, hmsg'⟩ := Snapshot.exists_common_message hspan.1 hspan.2 hmem
  rw [overMessage_result hS hr hmsg h, overMessage_result hS' hr' hmsg' h', hf]

end

theorem crcMsbBy_congr (impl impl' : Config.Impl) {w : Nat} (h0 : 0 < w) {p p' i i' : BitVec w} (hp : p = p')
    (hi : i = i') : crcMsbBy impl p i = crcMsbBy impl' p' i' := by
  rw [hp, hi, crcMsbBy_eq_crcMsb impl h0, crcMsbBy_eq_crcMsb impl' h0]

theorem crcLsbBy_congr (impl impl' : Config.Impl) {w : Nat} (hw : 8 ≤ w) {p p' i i' : BitVec w} (hp : p = p')
    (hi : i = i') : crcLsbBy impl p i = crcLsbBy impl' p' i' := by
  rw [hp, hi, crcLsbBy_eq_crcLsb impl hw, crcLsbBy_eq_crcLsb impl' hw]

theorem Snapshot.dataByte_congr {S S' : Snapshot} (h : S.data.setWidth 8 = S'.data.setWidth 8) :
    S.dataByte = S'.dataByte := by
  simpa [Snapshot.dataByte, BitVec.setWidth_eq_extractLsb'] using h

/-- Settles O29: each command's RESULT is one function of its operand bits and its message, and the CRC generators of
the two values of IMPL are one function. -/
theorem resultDependsOnlyOnOperands : Obligations.ResultDependsOnlyOnOperands := by
  intro i w s s' t t' S S' hw hS hS' hr hr' hops hmem h h'
  have overMsg {v : Nat} {f f' : Snapshot → List Byte → BitVec v} (hm : readsMessage i = true) :=
    overMessage_result_congr (f := f) (f' := f') (t := t) (t' := t') hS hS' hr hr' (hmem hm)
  cases i with
  | rev8 | parity8 =>
    rw [overOperands_result hS hr h, overOperands_result hS' hr' h', Snapshot.dataByte_congr hops]
  | reflect => cases hw
  | crc4 | crc7 | crc8 | crc16 =>
    obtain ⟨hp, hi, hspan⟩ := hops
    refine overMsg rfl hspan (crcMsbBy_congr _ _ (by decide) ?_ ?_) h h'
    · simp only [Snapshot.polyOf, hp]
    · simp only [Snapshot.initOf, hi]
  | crc8le | crc16lsb =>
    obtain ⟨hp, hi, hspan⟩ := hops
    refine overMsg rfl hspan (crcLsbBy_congr _ _ (by decide) ?_ ?_) h h'
    · simp only [Snapshot.polyOf, hp]
    · simp only [Snapshot.initOf, hi]
  | lfsr8 =>
    obtain ⟨hg, hk, hspan⟩ := hops
    exact overMsg rfl hspan (by simp only [Snapshot.genOf, Snapshot.keyOf, hg, hk]) h h'
  | lfsr16 =>
    obtain ⟨hg, hk, hd, hb⟩ := hops
    rw [overCountedBits_result hS hr h, overCountedBits_result hS' hr' h']
    simp only [Snapshot.genOf, Snapshot.keyOf, Snapshot.dataBits, hg, hk, hd, hb]
  | parityb | xorb | addb => exact overMsg rfl hops rfl h h'

end Sys2Proof.Machine

/-! The register window as the host sees it: the access at each register's offset, and at the reserved offsets
(R20, R21, R53). -/

namespace Sys2Proof.Machine

/-! ### Offsets -/

@[simp] theorem regAt_offset (r : Reg) : regAt r.offset.toNat = some r := by cases r <;> rfl

theorem regAt_eq_some {n : Nat} {r : Reg} (h : regAt n = some r) : n = r.offset.toNat := by
  unfold regAt at h
  split at h <;> cases h <;> rfl

theorem Reg.offset_aligned (r : Reg) : r.offset.toNat % 4 = 0 := by cases r <;> rfl

theorem Reg.offset_le (r : Reg) : r.offset.toNat ≤ 0x02C := by cases r <;> decide

theorem regAt_reserved {n : Nat} (h : 0x030 ≤ n) : regAt n = none := by
  cases hr : regAt n with
  | none => rfl
  | some r =>
    have hle := r.offset_le
    rw [← regAt_eq_some hr] at hle
    omega

/-- An aligned 32-bit access of the register window is no BUSERR (R53). -/
theorem busError_register {off : Offset} (hlt : off.toNat < regWindowEnd) (h4 : off.toNat % 4 = 0) (cap : Nat) :
    busError off .word cap = false := by
  have hmap (j : Nat) (hj : j < 4) : mapped cap (off.toNat + j) = true := by
    have hin : off.toNat + j < regWindowEnd := by unfold regWindowEnd at *; omega
    simp [mapped, hin]
  simpa [busError, Size.bytes, h4] using hmap

/-- The register window takes 32-bit accesses only (R53). -/
theorem busError_register_size {off : Offset} {size : Size} {cap : Nat} (h : busError off size cap = false)
    (hlt : off.toNat < regWindowEnd) : size = .word := by
  simpa [busError, hlt] using (Bool.or_eq_false_iff.1 h).2

/-! ### The access at a register's offset -/

theorem State.observed_of_ne (s : State) {r : Reg} (h : r ≠ .status) : s.observed r = s := by
  have hne : (r != .status) = true := bne_iff_ne.2 h
  simp [State.observed, hne]

theorem access_read_window (s : State) {off : Offset} (hlt : off.toNat < regWindowEnd) (h4 : off.toNat % 4 = 0) :
    s.access (.read off .word) = s.readRegister off.toNat := by
  simp [State.access, State.hostRead, busError_register hlt h4, hlt]

theorem access_write_window (s : State) {off : Offset} (hlt : off.toNat < regWindowEnd) (h4 : off.toNat % 4 = 0)
    (v : Word) : s.access (.write off .word v) = s.writeRegister off.toNat v := by
  simp [State.access, State.hostWrite, busError_register hlt h4, hlt]

theorem Reg.offset_lt (r : Reg) : r.offset.toNat < regWindowEnd := r.offset_le.trans_lt (by decide)

/-- A read of a register, of RESULT where it is specified (R20, R32). -/
theorem access_read_reg (s : State) {r : Reg} (h : r = .result → s.resultUnspecified = false) :
    s.access (.read r.offset .word) = (s.observed r).respond .ok (some (s.regValue r)) := by
  simp +contextual [access_read_window s r.offset_lt r.offset_aligned, State.readRegister, h]

theorem access_read_unspecifiedResult (s : State) (h : s.resultUnspecified = true) :
    s.access (.read Reg.result.offset .word) =
      { s with draws := s.draws + 1 }.respond .ok (some (Config.freeWord s.draws)) := by
  simp [access_read_window s Reg.result.offset_lt Reg.result.offset_aligned, State.readRegister, h]

theorem access_write_reg (s : State) (r : Reg) (v : Word) :
    s.access (.write r.offset .word v) = (s.writeReg r v).respond .ok none := by
  simp [access_write_window s r.offset_lt r.offset_aligned, State.writeRegister]

end Sys2Proof.Machine

/-! The value of each register: the bits of STATUS (R26), and the used bits of every register (R20, R21). -/

namespace Sys2Proof.Machine

/-! ### STATUS -/

theorem statusWord_done (s : State) : s.statusWord.getLsbD 1 = s.done := by
  rw [State.statusWord, BitVec.getLsbD_append, BitVec.getLsbD_append]
  simp

theorem statusWord_ovr (s : State) : s.statusWord.getLsbD 2 = s.ovr := by
  rw [State.statusWord, BitVec.getLsbD_append, BitVec.getLsbD_append, BitVec.getLsbD_append]
  simp

theorem statusWord_errv (s : State) : s.statusWord.getLsbD 3 = s.errv := by
  rw [State.statusWord, BitVec.getLsbD_append, BitVec.getLsbD_append, BitVec.getLsbD_append, BitVec.getLsbD_append]
  simp

/-- From bit 4 on, STATUS holds the code of ERR (R26). -/
theorem statusWord_getLsbD_add_four (s : State) (i : Nat) : s.statusWord.getLsbD (4 + i) = s.err.code.getLsbD i := by
  rw [State.statusWord, BitVec.getLsbD_append, BitVec.getLsbD_append, BitVec.getLsbD_append, BitVec.getLsbD_append,
    BitVec.getLsbD_append, Nat.add_comm]
  simpa using BitVec.lt_of_getLsbD

theorem statusWord_err (s : State) : s.statusWord.extractLsb' 4 4 = s.err.code := by
  refine BitVec.eq_of_getLsbD_eq fun i hi => ?_
  rw [BitVec.getLsbD_extractLsb', statusWord_getLsbD_add_four]
  simp [hi]

theorem statusWord_getLsbD_unused (s : State) {i : Nat} (h : 8 ≤ i) : s.statusWord.getLsbD i = false := by
  obtain ⟨j, rfl⟩ := Nat.exists_eq_add_of_le h
  rw [show 8 + j = 4 + (4 + j) by omega, statusWord_getLsbD_add_four]
  simp

theorem statusWord_unused (s : State) : s.statusWord.extractLsb' 8 24 = 0 := by
  refine BitVec.eq_of_getLsbD_eq fun i hi => ?_
  rw [BitVec.getLsbD_extractLsb', statusWord_getLsbD_unused s (Nat.le_add_right 8 i)]
  simp

/-! ### Used bits -/

/-- How many low bits of a register are used (R20). -/
def Reg.usedWidth : Reg → Nat
  | .status => 8
  | .poly => 16
  | .init => 16
  | .gen => 16
  | .key => 16
  | .bits => 8
  | _ => 32

/-- The used bits of a register, as a word. -/
def Reg.usedMask (r : Reg) : Word := (BitVec.allOnes r.usedWidth).setWidth 32

theorem setWidth_setWidth_eq_and (v : Word) (n : Nat) :
    (v.setWidth n).setWidth 32 = v &&& (BitVec.allOnes n).setWidth 32 := by
  refine BitVec.eq_of_getLsbD_eq fun i hi => ?_
  simp [hi, Bool.and_comm]

theorem setWidth_and_allOnes (v : Word) (n : Nat) :
    (v &&& (BitVec.allOnes n).setWidth 32).setWidth n = v.setWidth n := by
  refine BitVec.eq_of_getLsbD_eq fun i hi => ?_
  simpa [hi] using BitVec.lt_of_getLsbD

theorem setWidth_getLsbD_unused {n : Nat} (x : BitVec n) {i : Nat} (h : n ≤ i) :
    (x.setWidth 32).getLsbD i = false := by
  simp [BitVec.getLsbD_of_ge _ _ h]

theorem regValue_getLsbD_unused (s : State) (r : Reg) {i : Nat} (h : r.usedWidth ≤ i) :
    (s.regValue r).getLsbD i = false := by
  cases r with
  | status => exact statusWord_getLsbD_unused s h
  | poly | init | gen | key | bits => exact setWidth_getLsbD_unused _ h
  | cmd | data | msgBase | msgLen | result | cap => exact BitVec.getLsbD_of_ge _ _ h

theorem and_usedMask_of_full {r : Reg} (h : r.usedWidth = 32) (v : Word) : v &&& r.usedMask = v := by
  rw [Reg.usedMask, h, ← setWidth_setWidth_eq_and, BitVec.setWidth_eq, BitVec.setWidth_eq]

theorem respond_regValue (s : State) (resp : BusResp) (d : Option Word) (r : Reg) :
    (s.respond resp d).regValue r = s.regValue r := rfl

/-- Unused bits read as 0 (R21). -/
theorem regValue_and_not_usedMask (s : State) (r : Reg) : s.regValue r &&& ~~~r.usedMask = 0 := by
  refine BitVec.eq_of_getLsbD_eq fun i hi => ?_
  rcases lt_or_ge i r.usedWidth with h | h
  · simp [Reg.usedMask, h]
  · simp [regValue_getLsbD_unused s r h]

/-- What a STATUS write does depends on the used bits alone (R27). -/
theorem writeStatus_congr (s : State) {v v' : Word} (h : v.setWidth 8 = v'.setWidth 8) :
    s.writeStatus v = s.writeStatus v' := by
  have hbit (i : Nat) (hi : i < 8) : v.getLsbD i = v'.getLsbD i := by
    simpa [hi] using congrArg (BitVec.getLsbD · i) h
  simp only [State.writeStatus, hbit 1 (by decide), hbit 2 (by decide), hbit 3 (by decide)]

/-- A write to a register does the same whatever the unused bits hold (R21). -/
theorem writeReg_and_usedMask (s : State) (r : Reg) (v : Word) : s.writeReg r (v &&& r.usedMask) = s.writeReg r v := by
  cases r with
  | status => exact writeStatus_congr s (setWidth_and_allOnes v 8)
  | poly | init | gen | key | bits => simp only [State.writeReg, Reg.usedMask, Reg.usedWidth, setWidth_and_allOnes]
  | cmd | data | msgBase | msgLen => rw [and_usedMask_of_full rfl]
  | result | cap => rfl

end Sys2Proof.Machine

/-! What a host access of the register window does (files 10 and 20): STATUS, the operand registers, the read-only
registers, the reserved offsets, and the block after power-on. -/

namespace Sys2Proof.Machine

/-- A read of a register other than STATUS changes nothing but the response (R20, R60). -/
theorem access_read_reg_eq (s : State) {r : Reg} (hr : r ≠ .status) (h : r = .result → s.resultUnspecified = false) :
    s.access (.read r.offset .word) = { s with response := some ⟨.ok, some (s.regValue r)⟩ } := by
  rw [access_read_reg s h, s.observed_of_ne hr]
  rfl

theorem access_read_response (s : State) {r : Reg} (h : r ≠ .result) :
    (s.access (.read r.offset .word)).response = some ⟨.ok, some (s.regValue r)⟩ := by
  rw [access_read_reg s fun hr => absurd hr h, State.respond_response]

theorem access_read_status (s : State) :
    s.access (.read 0x004 .word) = (s.observed .status).respond .ok (some s.statusWord) :=
  access_read_reg s (r := .status) nofun

theorem access_reserved {off : Offset} (s : State) (v : Word) (h0 : 0x030 ≤ off.toNat) (h1 : off.toNat < regWindowEnd)
    (h4 : off.toNat % 4 = 0) :
    s.access (.read off .word) = s.respond .ok (some 0) ∧ s.access (.write off .word v) = s.respond .ok none := by
  rw [access_read_window s h1 h4, access_write_window s h1 h4]
  simp [State.readRegister, State.writeRegister, regAt_reserved h0]

/-- Settles O33: STATUS reads as `statusWord`, field by field. -/
theorem statusReadsItsFields : Obligations.StatusReadsItsFields := by
  intro s
  refine ⟨s.statusWord, ?_, statusWord_busy s, statusWord_done s, statusWord_ovr s, ?_, ?_, statusWord_unused s⟩
  · exact access_read_status s
  · rw [statusWord_errv, State.errv, bne, Bool.beq_eq_decide_eq, ← decide_not]
  · rw [statusWord_err]
    cases s.err <;> rfl

/-- Settles O34: the write is `writeStatus`. -/
theorem statusWriteClearsFlags : Obligations.StatusWriteClearsFlags := by
  intro s v
  have hclear (f b : Bool) : (f && !b) = if b = true then false else f := by cases b <;> simp
  rw [← hclear, ← hclear]
  exact access_write_reg s .status v

/-- Settles O36: an access at `r.offset` reads `regValue r`, and RESULT as long as it is unspecified a free value. -/
theorem registerReadsReturnTheirFields : Obligations.RegisterReadsReturnTheirFields := by
  refine ⟨fun s off v h => ?_, fun s h => ?_, fun s h => ?_⟩
  · rcases h with h | ⟨hb, hu, rfl, rfl⟩
    · obtain ⟨r, hr, ⟨⟩⟩ := List.exists_of_mem_map (f := fun r : Reg => (r.offset, s.regValue r))
        (l := [.cmd, .poly, .init, .gen, .key, .data, .bits, .msgBase, .msgLen, .cap]) h
      exact access_read_reg_eq s (ne_of_mem_of_not_mem hr (by decide)) fun hres =>
        absurd hres (ne_of_mem_of_not_mem hr (by decide))
    · exact access_read_reg_eq s (r := .result) nofun fun _ => by simp [State.resultUnspecified, hb, hu]
  · exact access_read_unspecifiedResult s (by simpa [State.resultUnspecified] using h)
  · rw [access_read_status]
    have hbusy : ((s.observed .status).respond .ok (some s.statusWord)).busy = false := h
    refine congrArg State.response (access_read_reg_eq _ (r := .result) nofun fun _ => ?_)
    simp [State.resultUnspecified, hbusy, h]

/-- Settles O37: the used bits of each register are `usedMask`, and no register is at a reserved offset. -/
theorem reservedBitsAndOffsets : Obligations.ReservedBitsAndOffsets := by
  refine ⟨fun s v used off h => ?_, fun s v off h0 h1 h4 => ?_⟩
  · obtain ⟨r, hr, ⟨⟩⟩ := List.exists_of_mem_map (f := fun r : Reg => (r.offset, r.usedMask))
      (l := [.status, .poly, .init, .gen, .key, .bits]) h
    have hne : r ≠ .result := ne_of_mem_of_not_mem hr (by decide)
    refine ⟨⟨s.regValue r, access_read_response s hne, regValue_and_not_usedMask s r⟩, ?_, ?_⟩
    · rw [access_write_reg, access_write_reg, writeReg_and_usedMask]
    · rw [access_write_reg, State.respond_response]
  · exact access_reserved s v h0 (Nat.lt_of_le_of_lt h1 (by decide)) h4

/-- Settles O38: `writeReg` ignores RESULT and CAP. -/
theorem readOnlyRegistersIgnoreWrites : Obligations.ReadOnlyRegistersIgnoreWrites := by
  refine fun s v => ⟨access_write_reg s .result v, access_write_reg s .cap v, ?_, fun hb hu => ?_⟩
  · exact access_read_reg_eq s (r := .cap) nofun nofun
  · exact access_read_reg_eq s (r := .result) nofun fun _ => by simp [State.resultUnspecified, hb, hu]

theorem regValue_reset {r : Reg} (h : r ≠ .cap) : State.reset.regValue r = 0 := by
  cases r with
  | cap => exact absurd rfl h
  | _ => rfl

theorem msgCap_pos : 1 ≤ Config.msgCap := Nat.le_add_left 1 _

theorem msgCap_le : Config.msgCap ≤ 2 ^ 20 := Config.msgCapLessOne.isLt

/-- Settles O49: no read of the reset state is unspecified, and every register but CAP holds 0. -/
theorem powerOnState : Obligations.PowerOnState := by
  have hread (r : Reg) : (State.reset.access (.read r.offset .word)).response =
      some ⟨.ok, some (State.reset.regValue r)⟩ := by
    rw [access_read_reg State.reset fun _ => rfl, State.respond_response]
  refine ⟨fun off h => ?_, hread .cap, msgCap_pos, msgCap_le, rfl, fun _ => rfl, rfl⟩
  obtain ⟨r, hr, rfl⟩ := List.exists_of_mem_map (f := Reg.offset)
    (l := [.cmd, .status, .poly, .init, .gen, .key, .data, .bits, .msgBase, .msgLen, .result]) h
  rw [hread, regValue_reset (ne_of_mem_of_not_mem hr (by decide))]

/-- Settles O52: nothing is in flight, no flag is set and MBUF is empty. -/
theorem invariantAtPowerOn : Obligations.InvariantAtPowerOn where
  capPositive := msgCap_pos
  capBound := msgCap_le
  memoryCanonical := reset_memory_wf
  memoryInside := nofun
  inFlightValidated := nofun
  busyQuiet := nofun
  doneNoError := nofun

end Sys2Proof.Machine

/-! What each operation of the host, the engine and the reset input leaves of STATUS, the model faults and RESULT (R29,
R31, R37). -/

namespace Sys2Proof.Machine

variable {s t : State}

/-! ### A register write -/

/-- The two states agree on RESULT, MSG_CAP, IMPL, MBUF, the model faults and the count of free values: what a register
write leaves, and, beside the snapshot, all that a completion reads. -/
structure State.RegisterWriteFrame (s t : State) : Prop where
  result : t.result = s.result
  cap : t.cap = s.cap
  impl : t.impl = s.impl
  mbuf : t.mbuf = s.mbuf
  faults : t.faults = s.faults
  draws : t.draws = s.draws

theorem writeCmd_frame (s : State) (v : Word) : s.RegisterWriteFrame (s.writeCmd v) := by
  rcases writeCmd_cases s v with ⟨_, heq⟩ | ⟨_, _, heq⟩ | ⟨_, _, heq⟩ <;> rw [heq] <;>
    exact ⟨rfl, rfl, rfl, rfl, rfl, rfl⟩

theorem writeReg_frame (s : State) (r : Reg) (v : Word) : s.RegisterWriteFrame (s.writeReg r v) := by
  cases r with
  | cmd => exact writeCmd_frame s v
  | _ => exact ⟨rfl, rfl, rfl, rfl, rfl, rfl⟩

/-- The command in flight keeps its snapshot: a CMD write is dropped (R34, R204). -/
theorem writeReg_snapshot {S : Snapshot} (hS : s.snapshot = some S) (r : Reg) (v : Word) :
    (s.writeReg r v).snapshot = some S := by
  cases r with
  | cmd =>
    have hdrop : s.writeCmd v = s.dropCommand := if_pos (Option.isSome_of_eq_some hS)
    exact (congrArg State.snapshot hdrop).trans hS
  | _ => exact hS

/-! ### STATUS -/

theorem State.statusWord_congr (hb : t.busy = s.busy) (hd : t.done = s.done) (ho : t.ovr = s.ovr)
    (he : t.err = s.err) : t.statusWord = s.statusWord := by
  simp only [State.statusWord, State.errv, hb, hd, ho, he]

theorem writeReg_statusWord {r : Reg} (hc : r ≠ .cmd) (hs : r ≠ .status) (v : Word) :
    (s.writeReg r v).statusWord = s.statusWord := by
  cases r with
  | cmd => exact absurd rfl hc
  | status => exact absurd rfl hs
  | _ => rfl

/-- What a write of MBUF can do: only a race touches more than MBUF. -/
theorem writeMessage_cases (s : State) (a n : Nat) (v : Word) :
    s.writeMessage a n v = { s with mbuf := s.mbuf.writeLE a n v }.respond .ok none ∨
    ∃ S, s.snapshot = some S ∧
      s.writeMessage a n v = (State.recordRace { s with mbuf := s.mbuf.writeLE a n v } S).respond .ok none := by
  unfold State.writeMessage
  split
  · exact .inr ⟨_, (racingSnapshot_some ‹_›).1, rfl⟩
  · exact .inl rfl

theorem recordRace_statusWord {S : Snapshot} (hS : s.snapshot = some S) :
    (s.recordRace S).statusWord = s.statusWord :=
  State.statusWord_congr (Option.isSome_of_eq_some hS).symm rfl rfl rfl

theorem readMessage_statusWord (s : State) (a n : Nat) : (s.readMessage a n).statusWord = s.statusWord := by
  rcases readMessage_cases s a n with ⟨k, d, heq, _⟩ | ⟨S, d, hrace, heq⟩
  · rw [heq]
    rfl
  · exact (congrArg State.statusWord heq).trans (recordRace_statusWord (racingSnapshot_some hrace).1)

theorem writeMessage_statusWord (s : State) (a n : Nat) (v : Word) :
    (s.writeMessage a n v).statusWord = s.statusWord := by
  rcases writeMessage_cases s a n v with heq | ⟨S, hS, heq⟩
  · rw [heq]
    rfl
  · exact (congrArg State.statusWord heq).trans (recordRace_statusWord hS)

theorem readRegister_statusWord (s : State) (n : Nat) : (s.readRegister n).statusWord = s.statusWord := by
  unfold State.readRegister
  split
  · rfl
  · split <;> rfl

theorem hostRead_statusWord (s : State) (off : Offset) (size : Size) :
    (s.hostRead off size).statusWord = s.statusWord := by
  unfold State.hostRead
  split
  · rfl
  · split
    · exact readRegister_statusWord s _
    · exact readMessage_statusWord s _ _

/-- What a host write can do: a response alone, a register written, or a write of MBUF (R53). -/
theorem hostWrite_cases (s : State) (off : Offset) (size : Size) (v : Word) :
    (∃ r d, s.hostWrite off size v = s.respond r d) ∨
    (∃ r, size = .word ∧ off = r.offset ∧ s.hostWrite off size v = (s.writeReg r v).respond .ok none) ∨
    (∃ a n, s.hostWrite off size v = s.writeMessage a n v) := by
  unfold State.hostWrite
  split
  · exact .inl ⟨_, _, rfl⟩
  · rename_i hb
    split
    · rename_i hlt
      unfold State.writeRegister
      split
      · exact .inl ⟨_, _, rfl⟩
      · exact .inr (.inl ⟨_, busError_register_size (Bool.eq_false_iff.2 hb) hlt,
          BitVec.eq_of_toNat_eq (regAt_eq_some ‹_›), rfl⟩)
    · exact .inr (.inr ⟨_, _, rfl⟩)

/-- An access that changes STATUS is a write to CMD or STATUS (R29). -/
theorem access_statusWord_ne {a : Access} (h : (s.access a).statusWord ≠ s.statusWord) :
    ∃ off v, a = .write off .word v ∧ (off = 0x000 ∨ off = 0x004) := by
  cases a with
  | read off size => exact absurd (hostRead_statusWord s off size) h
  | write off size v =>
    change (s.hostWrite off size v).statusWord ≠ _ at h
    rcases hostWrite_cases s off size v with ⟨r, d, heq⟩ | ⟨r, rfl, rfl, heq⟩ | ⟨a, n, heq⟩
    · exact absurd (congrArg State.statusWord heq) h
    · refine ⟨_, v, rfl, ?_⟩
      by_contra hoff
      push Not at hoff
      have hreg : (s.writeReg r v).statusWord = s.statusWord :=
        writeReg_statusWord (mt (congrArg Reg.offset) hoff.1) (mt (congrArg Reg.offset) hoff.2) v
      exact h ((congrArg State.statusWord heq).trans hreg)
    · exact absurd (heq ▸ writeMessage_statusWord s a n v) h

/-- Settles O35: of what the host can do, only a write to CMD or STATUS reaches the four fields of STATUS. -/
theorem flagsChangeOnlyAtNamedEvents : Obligations.FlagsChangeOnlyAtNamedEvents := by
  intro s t hstep hne
  rcases step_next hstep with ⟨hturn, he⟩ | ⟨_, _, rfl⟩ | ⟨hturn, S, i, hS, _, _⟩ | ⟨hturn, _⟩
  · refine .inr (.inr ⟨hturn, ?_⟩)
    cases he with
    | idle _ => exact absurd rfl hne
    | access a ops hops =>
      obtain ⟨off, v, rfl, hoff⟩ := access_statusWord_ne (s := { s.turned with program := ops }) hne
      exact ⟨off, v, ops, hops, hoff⟩
    | waiting _ _ _ | waited _ _ _ => exact absurd (hostRead_statusWord s.turned _ _) hne
  · exact absurd rfl hne
  · exact .inl ⟨hturn, Option.isSome_of_eq_some hS⟩
  · exact .inr (.inl hturn)

/-! ### Faults -/

/-- No model fault is removed, and MSG_CAP and IMPL stay (R37, R9, R22). -/
structure State.Retains (s t : State) : Prop where
  uninitRead : s.faults.uninitRead = true → t.faults.uninitRead = true
  msgRace : s.faults.msgRace = true → t.faults.msgRace = true
  cap : t.cap = s.cap
  impl : t.impl = s.impl

theorem State.Retains.of_eq (hf : t.faults = s.faults) (hc : t.cap = s.cap) (hi : t.impl = s.impl) :
    s.Retains t :=
  ⟨hf ▸ id, hf ▸ id, hc, hi⟩

theorem readMessage_retains (s : State) (a n : Nat) : s.Retains (s.readMessage a n) := by
  rcases readMessage_cases s a n with ⟨k, d, heq, _⟩ | ⟨S, d, _, heq⟩
  · exact heq ▸ ⟨fun h => by simp [h], id, rfl, rfl⟩
  · exact heq ▸ ⟨fun h => by simp [h], fun _ => rfl, rfl, rfl⟩

theorem writeMessage_retains (s : State) (a n : Nat) (v : Word) : s.Retains (s.writeMessage a n v) := by
  rcases writeMessage_cases s a n v with heq | ⟨S, _, heq⟩
  · exact heq ▸ .of_eq rfl rfl rfl
  · exact heq ▸ ⟨id, fun _ => rfl, rfl, rfl⟩

theorem AccessEffect.retains (he : AccessEffect s t) : s.Retains t := by
  cases he with
  | respond | unspecifiedResult | readReg => exact .of_eq rfl rfl rfl
  | writeReg r v =>
    have hkeep := writeReg_frame s r v
    exact .of_eq hkeep.faults hkeep.cap hkeep.impl
  | readMessage a n _ => exact readMessage_retains s a n
  | writeMessage a n v _ => exact writeMessage_retains s a n v

theorem HostEffect.retains (he : HostEffect s t) : s.Retains t := by
  cases he with
  | idle _ => exact .of_eq rfl rfl rfl
  | access a ops _ => exact { (access_effect { s with program := ops } a).retains with }
  | waiting _ _ _ => exact (access_effect s (.read Reg.status.offset .word)).retains
  | waited _ _ _ => exact { (access_effect s (.read Reg.status.offset .word)).retains with }

theorem exec_retains {i : Instr} (he : exec i s = .next t) : s.Retains t := by
  obtain ⟨S, _, _, ⟨_, rfl⟩ | ⟨_, w, cs, f, _, rfl⟩⟩ := exec_next he
  all_goals exact ⟨fun h => by simp [h], id, rfl, rfl⟩

theorem step_retains (h : step s = .next t) : s.Retains t := by
  rcases step_next h with ⟨_, he⟩ | ⟨_, _, rfl⟩ | ⟨_, S, i, _, _, he⟩ | ⟨_, rfl⟩
  · exact { he.retains with }
  · exact .of_eq rfl rfl rfl
  · exact { exec_retains he with }
  · exact .of_eq rfl rfl rfl

/-- Settles O55: every operation of a step keeps or adds model faults. -/
theorem faultsStickAndCapacityStays : Obligations.FaultsStickAndCapacityStays := by
  intro s t h
  obtain ⟨huninit, hrace, hcap, himpl⟩ := step_retains h
  exact ⟨huninit, hrace, hcap, himpl⟩

theorem State.not_noModelFault_iff :
    ¬ s.noModelFault ↔ s.faults.uninitRead = true ∨ s.faults.msgRace = true := by
  rw [State.noModelFault]
  rcases s.faults with ⟨u, r⟩
  cases u <;> cases r <;> decide

theorem step_keeps_modelFault (h : step s = .next t) (hs : ¬ s.noModelFault) : ¬ t.noModelFault := by
  rw [State.not_noModelFault_iff] at hs ⊢
  exact hs.imp (step_retains h).uninitRead (step_retains h).msgRace

theorem runSteps_keeps_modelFault (k : Nat) (h : runSteps k s = .next t) (hs : ¬ s.noModelFault) :
    ¬ t.noModelFault := by
  induction k generalizing s with
  | zero =>
    cases h
    exact hs
  | succ k ih =>
    unfold runSteps at h
    split at h
    · exact ih h (step_keeps_modelFault ‹_› hs)
    · cases h
    · cases h

/-- Settles O56: a final state has no model fault, and a model fault stays. -/
theorem faultedRunsNeverEnd : Obligations.FaultedRunsNeverEnd := by
  rintro k s t hs ⟨hrun, _, _, ht⟩
  exact runSteps_keeps_modelFault k hrun hs ht

/-! ### RESULT -/

theorem AccessEffect.result_eq (he : AccessEffect s t) : t.result = s.result := by
  cases he with
  | respond | unspecifiedResult | readReg => rfl
  | writeReg r v => exact (writeReg_frame s r v).result
  | readMessage a n _ =>
    rcases readMessage_cases s a n with ⟨k, d, heq, _⟩ | ⟨S, d, _, heq⟩ <;> rw [heq] <;> rfl
  | writeMessage a n v _ =>
    rcases writeMessage_cases s a n v with heq | ⟨S, _, heq⟩ <;> rw [heq] <;> rfl

theorem HostEffect.result_eq (he : HostEffect s t) : t.result = s.result := by
  cases he with
  | idle _ => rfl
  | access a ops _ => exact (access_effect { s with program := ops } a).result_eq
  | waiting _ _ _ | waited _ _ _ => exact (access_effect s (.read Reg.status.offset .word)).result_eq

theorem exec_reflect_result (h : exec .reflect s = .next t) : t.result = s.result := by
  obtain ⟨S, _, _, rfl⟩ := withSpan_next h
  rfl

theorem exec_done {i : Instr} (h : exec i s = .next t) : t.done = true := by
  obtain ⟨S, _, _, ⟨_, rfl⟩ | ⟨_, w, cs, f, _, rfl⟩⟩ := exec_next h <;> rfl

/-- Settles O57: no access of the host writes RESULT. -/
theorem resultChangesOnlyAtCompletionOrReset : Obligations.ResultChangesOnlyAtCompletionOrReset := by
  intro s t hstep hne
  rcases step_next hstep with ⟨_, he⟩ | ⟨_, _, rfl⟩ | ⟨hturn, S, i, hS, hi, he⟩ | ⟨hturn, _⟩
  · exact absurd he.result_eq hne
  · exact absurd rfl hne
  · refine .inr ⟨hturn, S, i, hS, hi, ?_, exec_done he⟩
    rintro rfl
    exact hne (exec_reflect_result (s := s.turned) he)
  · exact .inl hturn

end Sys2Proof.Machine

/-! What the completion of a command writes to RESULT, and what it reads of the state (R24, R31, R34, R205). -/

namespace Sys2Proof.Machine

/-! ### The CRC commands -/

section

variable {w : Nat} {s : State} {S : Snapshot} {msg : List Byte} (hS : s.snapshot = some S) (hr : S.raced = false)
  (hspan : spanInMbuf S.base S.len s.cap = true) (hmsg : S.cells s.mbuf = msg.map some)
include hS hr hspan hmsg

/-- A command over a written message without a race completes with its result for that message (R205). -/
theorem overMessage_written (f : Snapshot → List Byte → BitVec w) :
    overMessage s f = .next { s with
      result := (f S msg).setWidth 32, done := true, snapshot := none, resultUnseen := true } := by
  rw [overMessage_eq f hS hspan, hmsg, State.completeValue_written s hr]

theorem overMessage_crcMsbBy (hw : 0 < w) :
    overMessage s (fun S => crcMsbBy s.impl (S.polyOf w) (S.initOf w)) = .next { s with
      result := (crcMsb (S.poly.setWidth w) (S.init.setWidth w) msg).setWidth 32
      done := true, snapshot := none, resultUnseen := true } := by
  rw [overMessage_written hS hr hspan hmsg, crcMsbBy_eq_crcMsb _ hw, Snapshot.polyOf, Snapshot.initOf]

theorem overMessage_crcLsbBy (hw : 8 ≤ w) :
    overMessage s (fun S => crcLsbBy s.impl (S.polyOf w) (S.initOf w)) = .next { s with
      result := (crcLsb (S.poly.setWidth w) (S.init.setWidth w) msg).setWidth 32
      done := true, snapshot := none, resultUnseen := true } := by
  rw [overMessage_written hS hr hspan hmsg, crcLsbBy_eq_crcLsb _ hw, Snapshot.polyOf, Snapshot.initOf]

end

/-- Settles O11: the generator of either IMPL is the serial one (R131), and at width 16 POLY and INIT are whole. -/
theorem crcCommandsWriteTheRemainder : Obligations.CrcCommandsWriteTheRemainder := by
  intro s S msg hS hr hvalid hmsg
  have hspan := (spanInMbuf_iff _ _ _).2 (hvalid.1 rfl)
  have msb {w : Nat} (hw : 0 < w) := overMessage_crcMsbBy hS hr hspan hmsg hw
  have lsb {w : Nat} (hw : 8 ≤ w) := overMessage_crcLsbBy hS hr hspan hmsg hw
  have msb16 := msb (w := 16) (by decide)
  have lsb16 := lsb (w := 16) (by decide)
  rw [BitVec.setWidth_eq, BitVec.setWidth_eq] at msb16 lsb16
  exact ⟨msb (by decide), msb (by decide), msb (by decide), msb16, lsb (by decide), lsb16⟩

/-! ### The width of RESULT -/

section

variable {w : Nat} {s t : State}

/-- RESULT is the zero-extension of a result of `w` bits (R31). -/
def State.ResultOfWidth (t : State) (w : Nat) : Prop := ∃ v : BitVec w, t.result = v.setWidth 32

theorem overMessage_resultOfWidth {f : Snapshot → List Byte → BitVec w} (h : overMessage s f = .next t) :
    t.ResultOfWidth w := by
  obtain ⟨S, _, _, rfl⟩ := overMessage_next h
  exact ⟨_, State.completeValue_result ..⟩

theorem overOperands_resultOfWidth {f : Snapshot → BitVec w} (h : overOperands s f = .next t) :
    t.ResultOfWidth w := by
  obtain ⟨S, _, rfl⟩ := overOperands_next h
  exact ⟨_, State.completeValue_result ..⟩

theorem overCountedBits_resultOfWidth {f : Snapshot → BitVec w} (h : overCountedBits s f = .next t) :
    t.ResultOfWidth w := by
  obtain ⟨S, _, _, rfl⟩ := overCountedBits_next h
  exact ⟨_, State.completeValue_result ..⟩

theorem State.ResultOfWidth.toNat_lt (h : t.ResultOfWidth w) : t.result.toNat < 2 ^ w := by
  obtain ⟨v, hv⟩ := h
  rw [hv, BitVec.toNat_setWidth]
  exact (Nat.mod_le _ _).trans_lt v.isLt

theorem exec_resultOfWidth {i : Instr} (hw : resultWidth i = some w) (h : exec i s = .next t) :
    t.ResultOfWidth w := by
  cases i with
  | reflect => cases hw
  | rev8 | parity8 => cases hw; exact overOperands_resultOfWidth h
  | lfsr16 => cases hw; exact overCountedBits_resultOfWidth h
  | _ => cases hw; exact overMessage_resultOfWidth h

end

/-- Settles O25: an open result has the width of the command as well. -/
theorem resultFitsItsWidth : Obligations.ResultFitsItsWidth :=
  ⟨fun _ _ _ _ hw h => (exec_resultOfWidth hw h).toNat_lt, fun _ _ => exec_reflect_result⟩

/-! ### Operand registers -/

/-- No completion writes an operand register (R23). -/
theorem exec_sameOperandRegisters {i : Instr} {s t : State} (h : exec i s = .next t) : s.sameOperandRegisters t := by
  obtain ⟨S, _, _, ⟨_, rfl⟩ | ⟨_, w, cs, f, _, rfl⟩⟩ := exec_next h <;>
    exact ⟨rfl, rfl, rfl, rfl, rfl, rfl, rfl, rfl⟩

/-- An operand register holds the used bits of what was written (R21, R23). -/
theorem writeReg_regValue (s : State) {r : Reg}
    (h : r ∈ [Reg.poly, .init, .gen, .key, .data, .bits, .msgBase, .msgLen]) (v : Word) :
    (s.writeReg r v).regValue r = v &&& r.usedMask := by
  cases r with
  | cmd | status | result | cap => simp at h
  | poly | init | gen | key | bits => exact setWidth_setWidth_eq_and v _
  | data | msgBase | msgLen => exact (and_usedMask_of_full rfl v).symm

/-- Settles O39: a write is `writeReg`, a read `regValue`, and a completion writes no operand register. -/
theorem operandRegistersHoldWhatTheHostWrote : Obligations.OperandRegistersHoldWhatTheHostWrote := by
  refine ⟨fun s v => ?_, fun s v used off h => ?_, fun _ _ _ => exec_sameOperandRegisters⟩
  · have hwrite (r : Reg) := access_write_reg s r v
    exact ⟨hwrite .poly, hwrite .init, hwrite .gen, hwrite .key, hwrite .data, hwrite .bits, hwrite .msgBase,
      hwrite .msgLen⟩
  · obtain ⟨r, hr, ⟨⟩⟩ := List.exists_of_mem_map (f := fun r : Reg => (r.offset, r.usedMask))
      (l := [.poly, .init, .gen, .key, .data, .bits, .msgBase, .msgLen]) h
    rw [access_write_reg, access_read_response _ (ne_of_mem_of_not_mem hr (by decide)), respond_regValue,
      writeReg_regValue s hr v]

/-! ### A completion reads the snapshot, not the registers -/

/-- The RESULT, MBUF and model faults of two completions are the same. -/
structure State.SameOutcome (t u : State) : Prop where
  result : u.result = t.result
  mbuf : u.mbuf = t.mbuf
  faults : u.faults = t.faults

section

variable {w : Nat} {s s' t : State} (hb : s.RegisterWriteFrame s') (hS : s'.snapshot = s.snapshot)
include hb

theorem completeValue_sameOutcome (S : Snapshot) (cs : List (Option Byte)) (f : List Byte → BitVec w) :
    (s.completeValue S cs f).SameOutcome (s'.completeValue S cs f) where
  result := by simp [hb.draws]
  mbuf := by simp [State.completeValue, hb.draws, hb.mbuf]
  faults := by simp [hb.faults]

theorem reflect_sameOutcome (S : Snapshot) :
    ((s.reflectSpan S).finish S).SameOutcome ((s'.reflectSpan S).finish S) where
  result := hb.result
  mbuf := by simp [hb.draws, hb.mbuf]
  faults := by simp [hb.faults, hb.mbuf]

include hS

theorem withSpan_sameOutcome {k k' : Snapshot → State} (hk : ∀ S, (k S).SameOutcome (k' S))
    (h : withSpan s k = .next t) : ∃ u, withSpan s' k' = .next u ∧ t.SameOutcome u := by
  obtain ⟨S, hS₁, hspan, rfl⟩ := withSpan_next h
  exact ⟨k' S, withSpan_eq k' (hS.trans hS₁) (hb.cap ▸ hspan), hk S⟩

theorem overMessage_sameOutcome (f : Snapshot → List Byte → BitVec w) (h : overMessage s f = .next t) :
    ∃ u, overMessage s' f = .next u ∧ t.SameOutcome u :=
  withSpan_sameOutcome hb hS (fun S => hb.mbuf ▸ completeValue_sameOutcome hb S _ _) h

theorem overOperands_sameOutcome (f : Snapshot → BitVec w) (h : overOperands s f = .next t) :
    ∃ u, overOperands s' f = .next u ∧ t.SameOutcome u := by
  obtain ⟨S, hS₁, rfl⟩ := overOperands_next h
  exact ⟨_, overOperands_eq f (hS.trans hS₁), completeValue_sameOutcome hb S _ _⟩

theorem overCountedBits_sameOutcome (f : Snapshot → BitVec w) (h : overCountedBits s f = .next t) :
    ∃ u, overCountedBits s' f = .next u ∧ t.SameOutcome u := by
  obtain ⟨S, hS₁, hbits, rfl⟩ := overCountedBits_next h
  exact ⟨_, overCountedBits_eq f (hS.trans hS₁) hbits, completeValue_sameOutcome hb S _ _⟩

/-- Two states with the same command in flight that differ in their registers alone complete it alike (R34). -/
theorem exec_sameOutcome {i : Instr} (h : exec i s = .next t) : ∃ u, exec i s' = .next u ∧ t.SameOutcome u := by
  cases i with
  | rev8 | parity8 => exact overOperands_sameOutcome hb hS _ h
  | reflect => exact withSpan_sameOutcome hb hS (reflect_sameOutcome hb) h
  | crc4 | crc7 | crc8 | crc16 | crc8le | crc16lsb =>
    simp only [exec, execCrc4, execCrc7, execCrc8, execCrc16, execCrc8le, execCrc16lsb, hb.impl] at h ⊢
    exact overMessage_sameOutcome hb hS _ h
  | lfsr16 => exact overCountedBits_sameOutcome hb hS _ h
  | lfsr8 | parityb | xorb | addb => exact overMessage_sameOutcome hb hS _ h

end

/-- Settles O32: the write reaches neither the snapshot nor any other field that a completion reads. -/
theorem commandInFlightIgnoresRegisterWrites : Obligations.CommandInFlightIgnoresRegisterWrites := by
  intro i s t S r v hS
  rw [access_write_reg]
  have hsnap : ((s.writeReg r v).respond .ok none).snapshot = some S := writeReg_snapshot hS r v
  refine ⟨hsnap, fun h => ?_⟩
  have hb : s.RegisterWriteFrame ((s.writeReg r v).respond .ok none) := { writeReg_frame s r v with }
  obtain ⟨u, hu, hresult, hmbuf, hfaults⟩ := exec_sameOutcome hb (hsnap.trans hS.symm) h
  exact ⟨u, hu, hresult, hmbuf, hfaults⟩

end Sys2Proof.Machine

/-! Message races and BUSERR, in the terms of the spec (R53, R240). -/

namespace Sys2Proof.Machine

/-! ### Races -/

theorem isReflect_iff (S : Snapshot) : S.isReflect = true ↔ decode S.cmd = .ok .reflect := by
  unfold Snapshot.isReflect
  split
  · exact iff_of_true rfl ‹_›
  · exact iff_of_false nofun ‹_›

theorem races_iff (s : State) (w : Bool) (a n : Nat) :
    s.races w a n ↔ ∃ S, s.racingSnapshot w a n = some S := by
  simp only [State.races, State.racingSnapshot, Option.filter_eq_some_iff, Bool.and_eq_true, Bool.or_eq_true,
    touches_iff, isReflect_iff]

theorem not_races_iff (s : State) (w : Bool) (a n : Nat) : ¬ s.races w a n ↔ s.racingSnapshot w a n = none := by
  rw [races_iff, ← Option.isSome_iff_exists, Option.not_isSome_iff_eq_none]

/-- A read touches no more than a write of the same cells, so it races with no more (R240). -/
theorem State.races.write {s : State} {a n : Nat} (h : s.races false a n) : s.races true a n := by
  obtain ⟨S, hS, htouch, _⟩ := h
  exact ⟨S, hS, htouch, .inl rfl⟩

/-! ### BUSERR -/

theorem Size.bytes_eq_four (size : Size) : size.bytes = 4 ↔ size = .word := by cases size <;> decide

theorem mapped_eq_false_iff (cap o : Nat) :
    mapped cap o = false ↔ (0x001000 ≤ o ∧ o < 0x100000) ∨ 0x100000 + cap ≤ o := by
  simp only [mapped, regWindowEnd, msgWindow, Bool.or_eq_false_iff, Bool.and_eq_false_iff, decide_eq_false_iff_not]
  omega

/-- BusError of R53 over the map of R52. -/
theorem busError_iff (off : Offset) (size : Size) (cap : Nat) :
    busError off size cap = true ↔
      off.toNat % size.bytes ≠ 0 ∨
      (∃ j, j < size.bytes ∧ ((0x001000 ≤ off.toNat + j ∧ off.toNat + j < 0x100000) ∨
        0x100000 + cap ≤ off.toNat + j)) ∨
      (off.toNat < 0x001000 ∧ size.bytes ≠ 4) := by
  simp only [busError, Bool.or_eq_true, Bool.and_eq_true, bne_iff_ne, List.any_eq_true, List.mem_range,
    Bool.not_eq_true', mapped_eq_false_iff, decide_eq_true_eq, ne_eq, Size.bytes_eq_four, or_assoc, regWindowEnd]

/-- An aligned access of cells inside MBUF is no BUSERR (R50, R53). -/
theorem busError_of_cells {off : Offset} {size : Size} {a cap : Nat} (hoff : off.toNat = msgWindow + a)
    (halign : off.toNat % size.bytes = 0) (hcap : a + size.bytes ≤ cap) : busError off size cap = false := by
  unfold msgWindow at hoff
  refine Bool.eq_false_iff.2 fun h => ?_
  rcases (busError_iff off size cap).1 h with h | ⟨j, hj, h⟩ | ⟨h, _⟩
  · exact h halign
  · omega
  · omega

theorem hostRead_of_busError {s : State} {off : Offset} {size : Size} (h : busError off size s.cap = true) :
    s.hostRead off size = s.respond .busErr (some 0) := if_pos h

theorem hostWrite_of_busError {s : State} {off : Offset} {size : Size} (h : busError off size s.cap = true)
    (v : Word) : s.hostWrite off size v = s.respond .busErr none := if_pos h

/-- Any read that is no BUSERR ends with OK and data (R53). -/
theorem hostRead_response_ok {s : State} {off : Offset} {size : Size} (h : busError off size s.cap = false) :
    ∃ d, (s.hostRead off size).response = some ⟨.ok, some d⟩ := by
  rw [State.hostRead, if_neg (Bool.eq_false_iff.1 h)]
  split
  · unfold State.readRegister
    split
    · exact ⟨_, rfl⟩
    · split <;> exact ⟨_, rfl⟩
  · rcases readMessage_cases s (off.toNat - msgWindow) size.bytes with ⟨k, d, heq, _⟩ | ⟨S, d, _, heq⟩ <;>
      exact ⟨d, congrArg State.response heq⟩

/-- Any write that is no BUSERR ends with OK (R53). -/
theorem hostWrite_response_ok {s : State} {off : Offset} {size : Size} (h : busError off size s.cap = false)
    (v : Word) : (s.hostWrite off size v).response = some ⟨.ok, none⟩ := by
  rw [State.hostWrite, if_neg (Bool.eq_false_iff.1 h)]
  split
  · unfold State.writeRegister
    split <;> rfl
  · rcases writeMessage_cases s (off.toNat - msgWindow) size.bytes v with heq | ⟨S, _, heq⟩ <;> rw [heq] <;> rfl

/-- Settles O40: `bad` is `busError`. -/
theorem busErrorsHaveNoEffect : Obligations.BusErrorsHaveNoEffect := by
  intro s off size v n bad
  have hn : n = size.bytes := by cases size <;> rfl
  have hbad : bad ↔ busError off size s.cap = true := by rw [busError_iff, ← hn]
  rw [hbad]
  refine ⟨fun h => ⟨hostRead_of_busError h, hostWrite_of_busError h v⟩, fun h => ?_⟩
  exact ⟨hostRead_response_ok (Bool.eq_false_iff.2 h), hostWrite_response_ok (Bool.eq_false_iff.2 h) v⟩

end Sys2Proof.Machine

/-! Little-endian values: the bytes of a word, and the word of bytes (R55, R56). -/

namespace Sys2Proof.Machine

theorem wordOfBytes_cons_toNat (b : Byte) (bs : List Byte) :
    (wordOfBytes (b :: bs)).toNat = ((wordOfBytes bs).toNat * 256 + b.toNat) % 2 ^ 32 := by
  have hdisjoint : wordOfBytes bs <<< 8 &&& b.setWidth 32 = 0 := by
    refine BitVec.eq_of_getLsbD_eq fun i hi => ?_
    by_cases h : i < 8
    · simp [h]
    · simp [BitVec.getLsbD_of_ge b i (by omega)]
  rw [wordOfBytes, ← BitVec.add_eq_or_of_and_eq_zero _ _ hdisjoint, BitVec.toNat_add, BitVec.toNat_shiftLeft,
    BitVec.toNat_setWidth, Nat.shiftLeft_eq]
  omega

/-- A read assembles the digits of its value to the base 256, the lowest address first (R55). -/
theorem wordOfBytes_eq_ofDigits (bs : List Byte) :
    wordOfBytes bs = BitVec.ofNat 32 (Nat.ofDigits 256 (bs.map BitVec.toNat)) := by
  refine BitVec.eq_of_toNat_eq ?_
  rw [BitVec.toNat_ofNat]
  induction bs with
  | nil => rfl
  | cons b bs ih =>
    rw [wordOfBytes_cons_toNat, List.map_cons, Nat.ofDigits_cons, ih]
    push_cast
    omega

/-- The `n` low bytes of `v`, the byte in bits [7:0] first. -/
def leBytes : Nat → Word → List Byte
  | 0, _ => []
  | n + 1, v => v.setWidth 8 :: leBytes n (v >>> 8)

theorem wordOfBytes_leBytes_toNat (n : Nat) : ∀ v : Word,
    (wordOfBytes (leBytes n v)).toNat = v.toNat % 2 ^ (8 * n) := by
  induction n with
  | zero => exact fun v => (Nat.mod_one _).symm
  | succ n ih =>
    intro v
    have hsplit : v.toNat % 2 ^ (8 * (n + 1)) = v.toNat % 2 ^ 8 + 256 * (v.toNat / 2 ^ 8 % 2 ^ (8 * n)) := by
      rw [Nat.mul_succ, Nat.add_comm, Nat.pow_add]
      exact Nat.mod_mul
    have hlt : v.toNat % 2 ^ (8 * (n + 1)) < 2 ^ 32 := (Nat.mod_le _ _).trans_lt v.isLt
    rw [leBytes, wordOfBytes_cons_toNat, ih, BitVec.toNat_ushiftRight, Nat.shiftRight_eq_div_pow,
      BitVec.toNat_setWidth, ← Nat.mod_eq_of_lt hlt, hsplit, Nat.add_comm, Nat.mul_comm]

theorem wordOfBytes_leBytes (n : Nat) (v : Word) :
    wordOfBytes (leBytes n v) = BitVec.ofNat 32 (v.toNat % 2 ^ (8 * n)) := by
  rw [← wordOfBytes_leBytes_toNat, BitVec.ofNat_toNat, BitVec.setWidth_eq]

/-- A little-endian write leaves the bytes of its value in the cells it covers (R56). -/
theorem Memory.cells_writeLE (n : Nat) : ∀ (m : Memory) (a : Nat) (v : Word),
    (m.writeLE a n v).cells a n = (leBytes n v).map some := by
  induction n with
  | zero => exact fun _ _ _ => rfl
  | succ n ih =>
    intro m a v
    have hfirst : (m.writeLE a (n + 1) v).read a = some (v.setWidth 8) := by
      rw [Memory.read_writeLE, if_pos (by omega), Nat.sub_self, Nat.mul_zero, BitVec.ushiftRight_zero]
    rw [Memory.cells, hfirst, Memory.writeLE, ih]
    rfl

end Sys2Proof.Machine

/-! What a host access of the message window does (20_memory.md section 2, R240). -/

namespace Sys2Proof.Machine

variable {s : State} {off : Offset} {size : Size} {a n : Nat}

/-! ### An access of cells inside MBUF -/

theorem hostRead_of_msgWindow (hb : busError off size s.cap = false) (hoff : off.toNat = msgWindow + a) :
    s.hostRead off size = s.readMessage a size.bytes := by
  have hwin : ¬ off.toNat < regWindowEnd := by unfold msgWindow at hoff; unfold regWindowEnd; omega
  rw [State.hostRead, if_neg (Bool.eq_false_iff.1 hb), if_neg hwin, hoff, Nat.add_sub_cancel_left]

theorem hostWrite_of_msgWindow (hb : busError off size s.cap = false) (hoff : off.toNat = msgWindow + a)
    (v : Word) : s.hostWrite off size v = s.writeMessage a size.bytes v := by
  have hwin : ¬ off.toNat < regWindowEnd := by unfold msgWindow at hoff; unfold regWindowEnd; omega
  rw [State.hostWrite, if_neg (Bool.eq_false_iff.1 hb), if_neg hwin, hoff, Nat.add_sub_cancel_left]

theorem access_read_cells (hoff : off.toNat = msgWindow + a) (halign : off.toNat % size.bytes = 0)
    (hcap : a + size.bytes ≤ s.cap) : s.access (.read off size) = s.readMessage a size.bytes :=
  hostRead_of_msgWindow (busError_of_cells hoff halign hcap) hoff

theorem access_write_cells (hoff : off.toNat = msgWindow + a) (halign : off.toNat % size.bytes = 0)
    (hcap : a + size.bytes ≤ s.cap) (v : Word) :
    s.access (.write off size v) = s.writeMessage a size.bytes v :=
  hostWrite_of_msgWindow (busError_of_cells hoff halign hcap) hoff v

/-! ### Without a race -/

/-- A read that is no race (R55, R58). -/
theorem readMessage_of_not_races (h : ¬ s.races false a n) :
    s.readMessage a n =
      { s with
        faults := { s.faults with uninitRead := s.faults.uninitRead || hasUninit (s.mbuf.cells a n) }
        draws := if hasUninit (s.mbuf.cells a n) then s.draws + 1 else s.draws
        response := some ⟨.ok,
          some (readData (s.mbuf.cells a n) n (hasUninit (s.mbuf.cells a n)) s.draws)⟩ } := by
  rw [State.readMessage, (not_races_iff s false a n).1 h]
  rfl

theorem readMessage_written {bytes : List Byte} (h : ¬ s.races false a n)
    (hbytes : s.mbuf.cells a n = bytes.map some) :
    s.readMessage a n = { s with response := some ⟨.ok, some (wordOfBytes bytes)⟩ } := by
  rw [readMessage_of_not_races h, hbytes]
  simp [hasUninit_written, readData, zeroFill_written]

/-- A write that is no race (R56). -/
theorem writeMessage_of_not_races (h : ¬ s.races true a n) (v : Word) :
    s.writeMessage a n v = { s with mbuf := s.mbuf.writeLE a n v, response := some ⟨.ok, none⟩ } := by
  rw [State.writeMessage, (not_races_iff s true a n).1 h]
  rfl

theorem Memory.cells_eq_map_some {m : Memory} {bytes : List Byte} (hlen : bytes.length = n)
    (h : ∀ j, j < n → m.read (a + j) = bytes[j]?) : m.cells a n = bytes.map some := by
  refine List.ext_getElem? fun j => ?_
  by_cases hj : j < n
  · rw [Memory.cells_getElem? m n a j hj, h j hj, List.getElem?_map, List.getElem?_eq_getElem (hlen ▸ hj)]
    rfl
  · rw [List.getElem?_eq_none (by rw [Memory.cells_length]; omega), List.getElem?_eq_none (by simp [hlen]; omega)]

theorem hasUninit_cells {m : Memory} (h : ∃ j, j < n ∧ m.read (a + j) = none) : hasUninit (m.cells a n) = true := by
  obtain ⟨j, hj, hnone⟩ := h
  refine List.any_eq_true.2 ⟨none, ?_, rfl⟩
  exact List.mem_of_getElem? (hnone ▸ Memory.cells_getElem? m n a j hj)

/-- A load of written cells without a race (R55). -/
theorem access_read_written {bytes : List Byte} (hoff : off.toNat = msgWindow + a)
    (halign : off.toNat % size.bytes = 0) (hcap : a + size.bytes ≤ s.cap) (h : ¬ s.races false a size.bytes)
    (hbytes : s.mbuf.cells a size.bytes = bytes.map some) :
    s.access (.read off size) = { s with response := some ⟨.ok, some (wordOfBytes bytes)⟩ } := by
  rw [access_read_cells hoff halign hcap, readMessage_written h hbytes]

/-- A store without a race (R56). -/
theorem access_write_of_not_races (hoff : off.toNat = msgWindow + a) (halign : off.toNat % size.bytes = 0)
    (hcap : a + size.bytes ≤ s.cap) (h : ¬ s.races true a size.bytes) (v : Word) :
    s.access (.write off size v) =
      { s with mbuf := s.mbuf.writeLE a size.bytes v, response := some ⟨.ok, none⟩ } := by
  rw [access_write_cells hoff halign hcap, writeMessage_of_not_races h]

/-- Settles O41: written cells are the bytes of a message, which the read assembles. -/
theorem messageReadIsLittleEndian : Obligations.MessageReadIsLittleEndian := by
  intro s off size a bytes hoff halign hcap hlen hbytes hrace
  rw [access_read_written hoff halign hcap hrace (Memory.cells_eq_map_some hlen hbytes), wordOfBytes_eq_ofDigits]

/-- Settles O42: the memory afterwards is `writeLE`. -/
theorem messageWriteIsLittleEndian : Obligations.MessageWriteIsLittleEndian := by
  intro s off size a v hoff halign hcap hrace
  refine ⟨s.mbuf.writeLE a size.bytes v, ?_, fun j hj => ?_, fun x hx => ?_⟩
  · exact access_write_of_not_races hoff halign hcap hrace v
  · rw [Memory.read_writeLE, if_pos (by omega), Nat.add_sub_cancel_left, BitVec.setWidth_ushiftRight_eq_extractLsb]
  · rw [Memory.read_writeLE, if_neg (by omega)]

/-- Settles O43: the load reads the cells that `writeLE` has left, and races no more than the store. -/
theorem storeThenLoadReturnsValue : Obligations.StoreThenLoadReturnsValue := by
  intro s off size a v hoff halign hcap hrace
  rw [access_write_of_not_races hoff halign hcap hrace, ← wordOfBytes_leBytes]
  exact congrArg State.response
    (access_read_written
      (s := { s with mbuf := s.mbuf.writeLE a size.bytes v, response := some ⟨.ok, none⟩ })
      hoff halign hcap (fun h => hrace (State.races.write (s := s) h)) (Memory.cells_writeLE _ _ _ _))

/-- Settles O44: the one UNINIT cell opens the whole data. -/
theorem uninitHostReadRecordsFault : Obligations.UninitHostReadRecordsFault := by
  intro s off size a hoff halign hcap hrace huninit
  rw [access_read_cells hoff halign hcap, readMessage_of_not_races hrace, hasUninit_cells huninit]
  simp [readData]

/-! ### With or without a race -/

/-- The snapshot but for the model's race mark. -/
def Snapshot.unmarked (S : Snapshot) : Snapshot := { S with raced := false }

/-- What any access of the cells `a` to `a + n - 1` leaves: every field but MBUF, the snapshot, the model faults, the
count of free values and the response; the snapshot but for its race mark; and the cells that are neither written nor
in the span of a racing command. -/
structure State.MessageFrame (s t : State) (isWrite : Bool) (a n : Nat) : Prop where
  fields : ∃ m S f k r, t = { s with mbuf := m, snapshot := S, faults := f, draws := k, response := r }
  snapshot : t.snapshot.map Snapshot.unmarked = s.snapshot.map Snapshot.unmarked
  cells : ∀ x, (isWrite = true → x < a ∨ a + n ≤ x) →
    (∀ S, s.snapshot = some S → s.races isWrite a n → S.inSpan x = false) → t.mbuf.read x = s.mbuf.read x

theorem respond_messageFrame (s : State) (r : BusResp) (d : Option Word) (isWrite : Bool) (a n : Nat) :
    s.MessageFrame (s.respond r d) isWrite a n where
  fields := ⟨_, _, _, _, _, rfl⟩
  snapshot := rfl
  cells _ _ _ := rfl

/-- A race does no more to the command in flight than mark it (R240). -/
theorem recordRace_snapshot_unmarked {S : Snapshot} (hS : s.snapshot = some S) :
    (s.recordRace S).snapshot.map Snapshot.unmarked = s.snapshot.map Snapshot.unmarked := by
  rw [hS]
  rfl

theorem recordRace_read_outside {S : Snapshot} {x : Nat} (h : S.inSpan x = false) :
    (s.recordRace S).mbuf.read x = s.mbuf.read x := by
  simp [Memory.read_scrambleSpan, h]

theorem readMessage_messageFrame (s : State) (a n : Nat) : s.MessageFrame (s.readMessage a n) false a n := by
  rcases readMessage_cases s a n with ⟨k, d, heq, _⟩ | ⟨S, d, hrace, heq⟩
  · rw [heq]
    exact ⟨⟨_, _, _, _, _, rfl⟩, rfl, fun _ _ _ => rfl⟩
  · rw [heq]
    have hS := (racingSnapshot_some hrace).1
    exact ⟨⟨_, _, _, _, _, rfl⟩, recordRace_snapshot_unmarked hS,
      fun x _ hx => recordRace_read_outside (hx S hS ((races_iff _ _ _ _).2 ⟨S, hrace⟩))⟩

theorem writeMessage_of_racingSnapshot {S : Snapshot} (h : s.racingSnapshot true a n = some S) (v : Word) :
    s.writeMessage a n v = (State.recordRace { s with mbuf := s.mbuf.writeLE a n v } S).respond .ok none := by
  rw [State.writeMessage, h]

theorem writeMessage_messageFrame (s : State) (a n : Nat) (v : Word) :
    s.MessageFrame (s.writeMessage a n v) true a n := by
  have hkeep (x : Nat) (hx : x < a ∨ a + n ≤ x) : (s.mbuf.writeLE a n v).read x = s.mbuf.read x := by
    rw [Memory.read_writeLE, if_neg (by omega)]
  by_cases hrace : s.races true a n
  · obtain ⟨S, hS⟩ := (races_iff s true a n).1 hrace
    have hflight := (racingSnapshot_some hS).1
    rw [writeMessage_of_racingSnapshot hS]
    exact ⟨⟨_, _, _, _, _, rfl⟩, recordRace_snapshot_unmarked hflight,
      fun x hout hspan => (recordRace_read_outside (hspan S hflight hrace)).trans (hkeep x (hout rfl))⟩
  · rw [writeMessage_of_not_races hrace]
    exact ⟨⟨_, _, _, _, _, rfl⟩, rfl, fun x hout _ => hkeep x (hout rfl)⟩

theorem access_messageFrame (s : State) (hoff : off.toNat = msgWindow + a) (v : Word) (isWrite : Bool) :
    s.MessageFrame (s.access (if isWrite then .write off size v else .read off size)) isWrite a size.bytes := by
  cases isWrite with
  | true =>
    change s.MessageFrame (s.hostWrite off size v) true a size.bytes
    cases hb : busError off size s.cap with
    | true => exact hostWrite_of_busError hb v ▸ respond_messageFrame s _ _ _ _ _
    | false => exact hostWrite_of_msgWindow hb hoff v ▸ writeMessage_messageFrame s a size.bytes v
  | false =>
    change s.MessageFrame (s.hostRead off size) false a size.bytes
    cases hb : busError off size s.cap with
    | true => exact hostRead_of_busError hb ▸ respond_messageFrame s _ _ _ _ _
    | false => exact hostRead_of_msgWindow hb hoff ▸ readMessage_messageFrame s a size.bytes

/-- Settles O46: with BUSERR, for a read and for a write the frame is `MessageFrame`. -/
theorem messageAccessFrame : Obligations.MessageAccessFrame := by
  rintro s t off size a v isWrite hoff rfl
  obtain ⟨⟨m, S, f, k, r, ht⟩, hsnap, hcells⟩ := access_messageFrame (size := size) s hoff v isWrite
  rw [ht] at hsnap hcells ⊢
  exact ⟨rfl, rfl, rfl, rfl, ⟨rfl, rfl, rfl, rfl, rfl, rfl, rfl, rfl⟩, rfl, rfl, rfl, rfl, rfl, rfl, hsnap, hcells⟩

/-! ### Reads -/

/-- What a read of the register window can change: nothing of the block (R54, R60). -/
theorem readRegister_fields (s : State) (n : Nat) :
    ∃ k z r, s.readRegister n = { s with draws := k, resultUnseen := z, response := r } := by
  unfold State.readRegister
  split
  · exact ⟨_, _, _, rfl⟩
  · split <;> exact ⟨_, _, _, rfl⟩

/-- Settles O47: a BUSERR, a read of the register window, and a read of cells without a race. -/
theorem readsHaveNoSideEffects : Obligations.ReadsHaveNoSideEffects := by
  intro s off size hrace
  change ∃ k u z r, s.hostRead off size = _
  unfold State.hostRead
  split
  · exact ⟨_, _, _, _, rfl⟩
  · split
    · obtain ⟨k, z, r, heq⟩ := readRegister_fields s off.toNat
      exact ⟨k, _, z, r, heq⟩
    · rename_i hb hwin
      obtain ⟨hmsg, _⟩ := busError_message (Bool.eq_false_iff.2 hb) hwin
      exact ⟨_, _, _, _, readMessage_of_not_races (hrace _ (Nat.add_sub_of_le hmsg).symm)⟩

end Sys2Proof.Machine

/-! What a completion leaves of MBUF (R61, R104, R240). -/

namespace Sys2Proof.Machine

variable {s : State} {S : Snapshot} {a : Nat}

theorem inSpan_iff (S : Snapshot) (a : Nat) :
    S.inSpan a = true ↔ S.base.toNat ≤ a ∧ a < S.base.toNat + S.len.toNat := by
  simp [Snapshot.inSpan]

/-- The end of a completion changes no cell outside the span, raced or not. -/
theorem finish_read_outside (h : S.inSpan a = false) : (s.finish S).mbuf.read a = s.mbuf.read a := by
  rw [State.finish_mbuf]
  split
  · simp [Memory.read_scrambleSpan, h]
  · rfl

/-- The end of a completion changes what cells hold, never which cells are written. -/
theorem finish_read_isSome : ((s.finish S).mbuf.read a).isSome = (s.mbuf.read a).isSome := by
  rw [State.finish_mbuf]
  split
  · rw [Memory.read_scrambleSpan]
    split
    · exact Option.isSome_map
    · rfl
  · rfl

theorem reflectSpan_read_outside (h : S.inSpan a = false) : (s.reflectSpan S).mbuf.read a = s.mbuf.read a := by
  rw [State.reflectSpan_mbuf, read_reflectCells, if_neg fun hin => by simp [(inSpan_iff S a).2 hin] at h]

theorem reflectSpan_read_isSome (h : S.inSpan a = true) : ((s.reflectSpan S).mbuf.read a).isSome = true := by
  rw [State.reflectSpan_mbuf, read_reflectCells, if_pos ((inSpan_iff S a).1 h)]
  rfl

/-- Settles O26: REFLECT writes every cell of its span and no other, no other command writes MBUF, and what the end of
a raced completion adds stays in the span. -/
theorem completionTouchesOnlyItsSpan : Obligations.CompletionTouchesOnlyItsSpan := by
  intro i s t S hS h
  obtain ⟨S', hS', _, hkind⟩ := exec_next h
  obtain rfl : S = S' := Option.some.inj (hS.symm.trans hS')
  rcases hkind with ⟨rfl, rfl⟩ | ⟨hi, w, cs, f, _, rfl⟩
  · have hin (a : Nat) (ha : S.inSpan a = true) : (((s.reflectSpan S).finish S).mbuf.read a).isSome = true := by
      rw [finish_read_isSome, reflectSpan_read_isSome ha]
    have hout (a : Nat) (ha : S.inSpan a = false) : ((s.reflectSpan S).finish S).mbuf.read a = s.mbuf.read a := by
      rw [finish_read_outside ha, reflectSpan_read_outside ha]
    refine ⟨hout, fun a ha => ?_, fun _ hne => absurd rfl hne, fun _ => hin⟩
    cases hspan : S.inSpan a with
    | true => exact hin a hspan
    | false => rwa [hout a hspan]
  · refine ⟨fun a => finish_read_outside, fun a ha => ?_, fun hr _ => s.completeValue_mbuf hr cs f,
      fun hreflect => absurd hreflect hi⟩
    exact finish_read_isSome.trans ha

end Sys2Proof.Machine

/-! The host's turn (R66, R88). -/

namespace Sys2Proof.Machine

/-- The host moves when the schedule says so, and when it is used up and nothing is in flight (log entry 2). -/
theorem step_eq_hostTurn {s : State} {ts : List Turn}
    (h : s.schedule = .host :: ts ∨ (s.schedule = [] ∧ ts = [] ∧ s.snapshot = none)) :
    step s = .next (hostTurn { s with schedule := ts }) := by
  rw [step_eq]
  rcases h with h | ⟨h, rfl, hS⟩
  · simp [State.turned, State.turn, h, takeTurn]
  · simp [State.turned, State.turn, h, State.dueTurn, State.busy, hS, takeTurn]

/-- One round of `wait` reads STATUS (R88). -/
theorem poll_eq (s : State) :
    s.poll = { s with
      resultUnseen := s.resultUnseen && s.busy
      response := some ⟨.ok, some s.statusWord⟩ } :=
  access_read_status s

theorem hostTurn_idle {s : State} (h : s.program = []) : hostTurn s = s := by
  rw [hostTurn, h]

theorem hostTurn_access {s : State} {x : Access} {ops : List HostOp} (h : s.program = .access x :: ops) :
    hostTurn s = { s with program := ops }.access x := by
  rw [hostTurn, h]

/-- `wait` goes away in the turn whose STATUS value has BUSY = 0 (log entry 13). -/
theorem hostTurn_wait {s : State} {ops : List HostOp} (h : s.program = .wait :: ops) :
    hostTurn s = { s with
      program := if s.busy then .wait :: ops else ops
      response := some ⟨.ok, some s.statusWord⟩
      resultUnseen := s.resultUnseen && s.busy } := by
  rw [hostTurn, h]
  simp only [statusWord_busy, poll_eq]
  cases s.busy with
  | true => rw [if_pos rfl, if_pos rfl, ← h]
  | false => rfl

/-- Settles O51: the three forms of the host's program. -/
theorem hostTurnPerformsTheNextAccess : Obligations.HostTurnPerformsTheNextAccess := by
  intro s ts ops hturn
  rw [step_eq_hostTurn hturn]
  refine ⟨fun a h => ?_, fun h => ?_, fun h => ?_⟩
  · rw [hostTurn_access (s := { s with schedule := ts }) h]
  · exact congrArg Host.Outcome.next (hostTurn_wait (s := { s with schedule := ts }) h)
  · rw [hostTurn_idle (s := { s with schedule := ts }) h]

end Sys2Proof.Machine

/-! Command words (R80 to R84): each command has one word, and a word of no command is Illegal. -/

namespace Sys2Proof

/-! ### The fields of a word as numbers -/

theorem rsv_eq_zero_iff (c : Word) : c.extractLsb' 8 24 = 0 ↔ c.toNat < 256 := by
  rw [← BitVec.toNat_inj, BitVec.extractLsb'_toNat]
  simp only [Nat.shiftRight_eq_div_pow, BitVec.ofNat_eq_ofNat, BitVec.toNat_ofNat]
  omega

theorem rsv_ne_zero_iff (c : Word) : c.extractLsb' 8 24 ≠ 0 ↔ 256 ≤ c.toNat := by
  rw [ne_eq, rsv_eq_zero_iff, Nat.not_lt]

theorem group_toNat (c : Word) : (c.extractLsb' 4 4).toNat = c.toNat / 16 % 16 := by
  simp [Nat.shiftRight_eq_div_pow]

theorem function_toNat (c : Word) : (c.extractLsb' 0 4).toNat = c.toNat % 16 := by simp

theorem lowByte_toNat (c : Word) : (c.extractLsb' 0 8).toNat = c.toNat % 256 := by simp

/-! ### The opcode map and Decode -/

/-- The rows of the opcode map (R82), in its order. -/
def opcodeMap : List Instr :=
  [.rev8, .reflect, .crc4, .crc7, .crc8, .crc16, .crc8le, .crc16lsb, .lfsr8, .lfsr16, .parity8, .parityb, .xorb, .addb]

theorem mem_opcodeMap (i : Instr) : i ∈ opcodeMap := by cases i <;> decide

theorem opcodeMap_words : (opcodeMap.map fun i => (encode i).toNat) =
    [0x10, 0x11, 0x20, 0x21, 0x22, 0x23, 0x26, 0x27, 0x30, 0x31, 0x40, 0x41, 0x42, 0x43] := by decide

@[simp] theorem decode_encode (i : Instr) : decode (encode i) = .ok i := by cases i <;> rfl

/-- A word whose reserved field is 0 is its low byte (R80). -/
theorem eq_ofNat_of_lowByte {c : Word} {n : Nat} (hrsv : c.extractLsb' 8 24 = 0) (hn : (c.extractLsb' 0 8).toNat = n) :
    c = BitVec.ofNat 32 n := by
  rw [rsv_eq_zero_iff] at hrsv
  rw [lowByte_toNat, Nat.mod_eq_of_lt hrsv] at hn
  rw [← hn, BitVec.ofNat_toNat, BitVec.setWidth_eq]

theorem eq_encode_of_decode {c : Word} {i : Instr} (h : decode c = .ok i) : c = encode i := by
  unfold decode at h
  split at h
  · rename_i hrsv
    split at h
    all_goals cases h
    all_goals exact eq_ofNat_of_lowByte hrsv ‹_›
  · cases h

/-- A command is decoded from its own word and from no other (R82, R83). -/
theorem decode_eq_ok_iff (c : Word) (i : Instr) : decode c = .ok i ↔ c = encode i :=
  ⟨eq_encode_of_decode, fun h => h ▸ decode_encode i⟩

theorem decode_isError_iff (c : Word) : (∃ e, decode c = .error e) ↔ ∀ i, c ≠ encode i := by
  simp only [ne_eq, ← decode_eq_ok_iff]
  cases decode c <;> simp

/-- A word is Illegal exactly when the opcode map does not list it (R83, R84). -/
theorem decode_isError_iff_notMem (c : Word) :
    (∃ e, decode c = .error e) ↔
      c.toNat ∉ [0x10, 0x11, 0x20, 0x21, 0x22, 0x23, 0x26, 0x27, 0x30, 0x31, 0x40, 0x41, 0x42, 0x43] := by
  rw [decode_isError_iff, ← opcodeMap_words]
  simp [mem_opcodeMap, BitVec.toNat_inj, eq_comm]

/-- Settles O2: each command has the word of its row, and the rows are all the words that decode. -/
theorem decodeFollowsOpcodeMap : Obligations.DecodeFollowsOpcodeMap := fun c =>
  ⟨decode_eq_ok_iff c .rev8, decode_eq_ok_iff c .reflect, decode_eq_ok_iff c .crc4, decode_eq_ok_iff c .crc7,
    decode_eq_ok_iff c .crc8, decode_eq_ok_iff c .crc16, decode_eq_ok_iff c .crc8le, decode_eq_ok_iff c .crc16lsb,
    decode_eq_ok_iff c .lfsr8, decode_eq_ok_iff c .lfsr16, decode_eq_ok_iff c .parity8, decode_eq_ok_iff c .parityb,
    decode_eq_ok_iff c .xorb, decode_eq_ok_iff c .addb, decode_isError_iff_notMem c⟩

end Sys2Proof

namespace Sys2Proof.Machine

/-- An Illegal word fails validation before any operand is looked at (R202, R208). -/
theorem validate_of_illegal (s : State) {c : Word} {e : DecodeError} (h : decode c = .error e) :
    s.validate c = .illegalCommand := by
  rw [State.validate, h]

/-- An Illegal word is refused at issue (R84, R201). -/
theorem writeCmd_of_illegal {s : State} {c : Word} {e : DecodeError} (hb : s.busy = false)
    (h : decode c = .error e) : s.writeCmd c = s.refuseCommand c .illegalCommand := by
  simp [State.writeCmd, State.issue, hb, validate_of_illegal s h]

/-- Settles O4: the words the opcode map lists, in the fields of R80; and the refusal of R202. -/
theorem illegalWordsAreRefused : Obligations.IllegalWordsAreRefused := by
  refine ⟨fun c => ?_, fun s c e hb h => ?_⟩
  · rw [decode_isError_iff_notMem, rsv_ne_zero_iff, group_toNat, function_toNat, lowByte_toNat]
    simp only [List.mem_cons, List.not_mem_nil, or_false, not_or]
    omega
  · calc s.access (.write 0x000 .word c)
        = (s.writeCmd c).respond .ok none := access_write_reg s .cmd c
      _ = (s.refuseCommand c .illegalCommand).respond .ok none := by rw [writeCmd_of_illegal hb h]

end Sys2Proof.Machine

/-! The host assembly (R87, R88): statements as accesses, and the expansions of the pseudo-statements. -/

namespace Sys2Proof.Machine

/-- A message address below 2^20 keeps its place in the message window (R52, log entry 15). -/
theorem msgOffset_toNat {a : Nat} (h : a < 2 ^ 20) : (msgOffset a).toNat = msgWindow + a := by
  rw [msgOffset, BitVec.toNat_ofNat, Nat.mod_eq_of_lt]
  unfold msgWindow
  omega

/-- Settles O59: the offset of a message address, and the one access that each statement is. -/
theorem hostStatementsAreTheirAccesses : Obligations.HostStatementsAreTheirAccesses :=
  ⟨fun _ => msgOffset_toNat, fun _ _ => rfl, fun _ => rfl, fun _ _ => rfl, fun _ _ => rfl, fun _ _ => rfl,
    fun _ => ⟨rfl, rfl, rfl⟩, fun _ => rfl, rfl⟩

/-- Settles O60: every expansion is the assembly of its row, the CRC rows one for each function. -/
theorem pseudoStatementsExpand : Obligations.PseudoStatementsExpand := by
  refine ⟨rfl, rfl, fun _ => rfl, fun _ => rfl, fun _ _ => rfl, fun f i base n poly init hrow => ?_,
    fun _ _ _ _ => rfl, fun _ _ _ _ => rfl, fun _ => rfl, fun _ _ => ⟨rfl, rfl, rfl⟩⟩
  have hinstr : i = f.instr := by cases f <;> simpa [CrcFunction.instr] using hrow
  rw [hinstr]
  rfl

end Sys2Proof.Machine

/-! Bit reflection (40_bit_reflection.md), and PARITY8, the other command over the byte DATA[7:0] (R170). -/

namespace Sys2Proof.Machine

/-! ### The bits of a byte -/

theorem getLsbD_rev8 (x : Byte) {i : Nat} (hi : i < 8) : (rev8 x).getLsbD i = x.getLsbD (7 - i) := by
  rw [rev8, BitVec.getLsbD_eq_getElem hi, BitVec.getElem_ofFnLE]

/-- The involution of R105 (a), on one byte. -/
@[simp] theorem rev8_rev8 (x : Byte) : rev8 (rev8 x) = x := by
  refine BitVec.eq_of_getLsbD_eq fun i hi => ?_
  rw [getLsbD_rev8 _ hi, getLsbD_rev8 _ (by omega), show 7 - (7 - i) = i by omega]

/-- R103: each bit, followed through the three stages of the network, comes from the bit R101 names. -/
theorem rev8Network_eq_rev8 (x : Byte) : rev8Network x = rev8 x := by
  refine BitVec.eq_of_getLsbD_eq fun i hi => ?_
  rw [getLsbD_rev8 x hi]
  unfold rev8Network
  interval_cases i <;> simp

theorem lowBitsLsbFirst_eq_map {w : Nat} (v : BitVec w) (n : Nat) :
    lowBitsLsbFirst v n = (List.range n).map fun k => v.getLsbD k := by
  induction n with
  | zero => rfl
  | succ n ih =>
    rw [List.range_succ, List.map_append, ← ih]
    simp [lowBitsLsbFirst, lowBitsMsbFirst]

theorem popcount_eq_length_filter (b : Byte) :
    popcount b = ((List.range 8).filter fun k => b.getLsbD k).length := by
  calc popcount b
      = (lowBitsLsbFirst b 8).count true := List.count_reverse.symm
    _ = (List.range 8).countP fun k => b.getLsbD k := by
        rw [lowBitsLsbFirst_eq_map, List.count, List.countP_map]
        simp [Function.comp_def]
    _ = _ := List.countP_eq_length_filter

theorem getLsbD_dataByte (S : Snapshot) {k : Nat} (hk : k < 8) : S.dataByte.getLsbD k = S.data.getLsbD k := by
  simp [Snapshot.dataByte, hk]

theorem popcount_dataByte (S : Snapshot) :
    popcount S.dataByte = ((List.range 8).filter fun k => S.data.getLsbD k).length := by
  rw [popcount_eq_length_filter, List.filter_congr fun k hk => getLsbD_dataByte S (List.mem_range.1 hk)]

/-- A parity bit zero-extended is the number mod 2 it stands for (R31, R170). -/
theorem setWidth_parity (b : Byte) : (parity b).setWidth 32 = BitVec.ofNat 32 (popcount b % 2) :=
  BitVec.eq_of_toNat_eq (by simp [parity])

/-- Settles O5: the bits of `rev8`, and the network bit by bit. -/
theorem rev8ReversesBits : Obligations.Rev8ReversesBits := fun x =>
  ⟨fun _ => getLsbD_rev8 x, rev8Network_eq_rev8 x⟩

/-! ### REV8 and PARITY8 -/

/-- A command that reads no message completes without a race with the result of its snapshot (R205). -/
theorem overOperands_unraced {w : Nat} {s : State} {S : Snapshot} (hS : s.snapshot = some S) (hr : S.raced = false)
    (f : Snapshot → BitVec w) :
    overOperands s f = .next { s with
      result := (f S).setWidth 32, done := true, snapshot := none, resultUnseen := true } := by
  rw [overOperands_eq f hS, State.completeValue_operands s hr]

/-- Settles O6: the two results of the byte operand, in the bits of DATA. -/
theorem byteCommandsWriteTheirResults : Obligations.ByteCommandsWriteTheirResults := by
  intro s S hS hr
  refine ⟨⟨rev8 S.dataByte, fun i hi => ?_, overOperands_unraced hS hr _⟩, ?_⟩
  · rw [getLsbD_rev8 _ hi, getLsbD_dataByte S (by omega)]
  · rw [← popcount_dataByte, ← setWidth_parity]
    exact overOperands_unraced hS hr _

/-! ### REFLECT -/

/-- The span is written exactly when its cells are a message. -/
theorem Snapshot.span_written_iff (S : Snapshot) (m : Memory) :
    (∀ a, S.inSpan a = true → (m.read a).isSome) ↔ ∃ msg : List Byte, S.cells m = msg.map some := by
  constructor
  · exact fun h => Memory.exists_message _ _ fun a h1 h2 => h a ((inSpan_iff S a).2 ⟨h1, h2⟩)
  · rintro ⟨msg, hmsg⟩ a ha
    obtain ⟨h1, h2⟩ := (inSpan_iff S a).1 ha
    have hcell : (msg.map some)[a - S.base.toNat]? = some (m.read a) := by
      rw [← hmsg, Snapshot.cells, Memory.cells_getElem? m _ _ _ (by omega), Nat.add_sub_of_le h1]
    obtain ⟨b, _, hb⟩ := List.mem_map.1 (List.mem_of_getElem? hcell)
    rw [← hb]
    rfl

/-- Cells that read through `f` in place of what they read before are the cells of before, through `f`. -/
theorem Memory.cells_map {m m' : Memory} (f : Byte → Byte) (n : Nat) :
    ∀ a, (∀ x, a ≤ x → x < a + n → m'.read x = (m.read x).map f) →
      m'.cells a n = (m.cells a n).map (Option.map f) := by
  induction n with
  | zero => exact fun _ _ => rfl
  | succ n ih =>
    intro a h
    rw [Memory.cells, Memory.cells, List.map_cons, h a le_rfl (by omega),
      ih (a + 1) fun x h1 h2 => h x (by omega) (by omega)]

/-- Bit 7 first after the reversal is bit 0 first before it (R62, R101). -/
theorem lowBitsMsbFirst_rev8 (b : Byte) : lowBitsMsbFirst (rev8 b) 8 = lowBitsLsbFirst b 8 := by
  rw [lowBitsLsbFirst_eq_map]
  simp only [lowBitsMsbFirst, getLsbD_rev8, Nat.reduceLT]
  rfl

theorem msbStream_map_rev8 (msg : List Byte) : msbStream (msg.map rev8) = lsbStream msg := by
  simp only [msbStream, lsbStream, List.flatMap_map, lowBitsMsbFirst_rev8]

section

variable {s t : State} {S : Snapshot} (hr : S.raced = false)
  (hwritten : ∀ a, S.inSpan a = true → (s.mbuf.read a).isSome)
include hr hwritten

/-- Beside the memory it leaves, REFLECT over a written span without a race changes only DONE and the snapshot (R104,
R205). -/
theorem reflectSpan_finish_written :
    (s.reflectSpan S).finish S = { s with
      mbuf := ((s.reflectSpan S).finish S).mbuf, done := true, snapshot := none, resultUnseen := true } := by
  obtain ⟨msg, hmsg⟩ := (S.span_written_iff s.mbuf).1 hwritten
  simp [State.reflectSpan, State.finish, State.recordUninit, hr, hmsg, hasUninit_written]

/-- What REFLECT over a written span without a race leaves in every cell (R104). -/
theorem reflectSpan_finish_read (a : Nat) :
    ((s.reflectSpan S).finish S).mbuf.read a = if S.inSpan a then (s.mbuf.read a).map rev8 else s.mbuf.read a := by
  rw [State.finish_mbuf, if_neg (by simp [hr])]
  split
  case isTrue hin =>
    obtain ⟨b, hb⟩ := Option.isSome_iff_exists.1 (hwritten a hin)
    rw [State.reflectSpan_mbuf, read_reflectCells, if_pos ((inSpan_iff S a).1 hin), hb]
    rfl
  case isFalse hout => exact reflectSpan_read_outside (Bool.eq_false_iff.2 hout)

variable (hS : s.snapshot = some S) (h : exec .reflect s = .next t)
include hS h

theorem exec_reflect_read (a : Nat) :
    t.mbuf.read a = if S.inSpan a then (s.mbuf.read a).map rev8 else s.mbuf.read a := by
  obtain ⟨S', hS', _, rfl⟩ := withSpan_next h
  obtain rfl : S = S' := Option.some.inj (hS.symm.trans hS')
  exact reflectSpan_finish_read hr hwritten a

theorem exec_reflect_cells : S.cells t.mbuf = (S.cells s.mbuf).map (Option.map rev8) :=
  Memory.cells_map rev8 _ _ fun a h1 h2 => by
    rw [exec_reflect_read hr hwritten hS h, if_pos ((inSpan_iff S a).2 ⟨h1, h2⟩)]

/-- A second REFLECT over the span restores each cell, since `rev8` is an involution (R105 (b)). -/
theorem exec_reflect_twice_read {u : State} (hu : exec .reflect { t with snapshot := some S } = .next u) (a : Nat) :
    u.mbuf.read a = s.mbuf.read a := by
  have ht := exec_reflect_read hr hwritten hS h
  have hwritten' : ∀ a, S.inSpan a = true → (t.mbuf.read a).isSome := fun a ha => by
    rw [ht, if_pos ha, Option.isSome_map]
    exact hwritten a ha
  rw [exec_reflect_read (s := { t with snapshot := some S }) hr hwritten' rfl hu, ht]
  split
  · simp [Function.comp_def]
  · rfl

end

/-- Settles O7: the span passed validation, and its cells are written. -/
theorem reflectRewritesItsSpan : Obligations.ReflectRewritesItsSpan := by
  intro s S hS hr hvalid hwritten
  refine ⟨_, ?_, reflectSpan_finish_read hr hwritten⟩
  rw [← reflectSpan_finish_written hr hwritten]
  exact withSpan_eq _ hS ((spanInMbuf_iff _ _ _).2 (hvalid.1 rfl))

/-- Settles O8: the three laws of R105. The stream after is that of the bytes of before, each reversed. -/
theorem reflectionLaws : Obligations.ReflectionLaws := by
  refine ⟨rev8_rev8, fun s t u S hS hr _ hwritten h hu => exec_reflect_twice_read hr hwritten hS h hu,
    fun s t S old hS hr hold h => ⟨old.map rev8, ?_, msbStream_map_rev8 old⟩⟩
  have hwritten := (S.span_written_iff s.mbuf).2 ⟨old, hold⟩
  rw [exec_reflect_cells hr hwritten hS h, hold]
  simp [Function.comp_def]

end Sys2Proof.Machine

/-! The CRC cores (41_crc.md): the serial steps as arithmetic, the order of the message bits, the byte-wise forms and
the mirror law. -/

namespace Sys2Proof.Machine

/-! ### The serial steps in plain arithmetic (R121, R122, R150) -/

theorem toNat_shiftLeft_one {w : Nat} (r : BitVec w) : (r <<< 1).toNat = r.toNat * 2 % 2 ^ w := by
  rw [BitVec.toNat_shiftLeft, Nat.shiftLeft_eq, pow_one]

theorem toNat_ushiftRight_one {w : Nat} (r : BitVec w) : (r >>> 1).toNat = r.toNat / 2 := by
  rw [BitVec.toNat_ushiftRight, Nat.shiftRight_eq_div_pow, pow_one]

theorem toNat_stepMsb {w : Nat} (p r : BitVec w) (b : Bool) :
    (stepMsb p r b).toNat =
      if r.getLsbD (w - 1) ^^ b then r.toNat * 2 % 2 ^ w ^^^ p.toNat else r.toNat * 2 % 2 ^ w := by
  rw [stepMsb, apply_ite BitVec.toNat, BitVec.toNat_xor, toNat_shiftLeft_one]

theorem toNat_stepLsb {w : Nat} (p r : BitVec w) (b : Bool) :
    (stepLsb p r b).toNat = if r.getLsbD 0 ^^ b then r.toNat / 2 ^^^ p.toNat else r.toNat / 2 := by
  rw [stepLsb, apply_ite BitVec.toNat, BitVec.toNat_xor, toNat_ushiftRight_one]

/-- The key advances as a remainder does on a message of zeros. -/
theorem keyStep_eq_stepMsb {w : Nat} (g key : BitVec w) : keyStep g key = stepMsb g key false := by
  rw [keyStep, stepMsb, Bool.xor_false]

/-- Settles O9: a shift by one place is a doubling mod 2^w or a halving, and KeyStep is StepMsb on the bit 0. -/
theorem shiftRegisterStepsAsStated : Obligations.ShiftRegisterStepsAsStated := fun _ p r b _ =>
  ⟨toNat_stepMsb p r b, toNat_stepLsb p r b, by rw [keyStep_eq_stepMsb, toNat_stepMsb, Bool.xor_false]⟩

/-! ### The bits of a message in order (R62) -/

/-- Element k of a list built from `n` elements for each `a` of `l` is element k mod n of those for `l[k / n]`. -/
theorem flatMap_map_range {α β : Type} (n : Nat) (f : α → Nat → β) (d : α) (l : List α) :
    (l.flatMap fun a => (List.range n).map (f a)) =
      (List.range (n * l.length)).map fun k => f (l.getD (k / n) d) (k % n) := by
  induction l with
  | nil => rfl
  | cons a l ih =>
    rw [List.flatMap_cons, ih, List.length_cons, Nat.mul_succ, Nat.add_comm, List.range_add, List.map_append,
      List.map_map]
    congr 1 <;> refine List.map_congr_left fun k hk => ?_
    · have hlt := List.mem_range.1 hk
      rw [Nat.div_eq_of_lt hlt, Nat.mod_eq_of_lt hlt, List.getD_cons_zero]
    · have hn : 0 < n := Nat.pos_of_mul_pos_right (Nat.zero_lt_of_lt (List.mem_range.1 hk))
      rw [Function.comp_apply, Nat.add_div_left k hn, Nat.add_mod_left, List.getD_cons_succ]

theorem lowBitsMsbFirst_eight (b : Byte) : lowBitsMsbFirst b 8 = (List.range 8).map fun k => b.getLsbD (7 - k) := rfl

theorem msbStream_eq_map_range (msg : List Byte) :
    msbStream msg = (List.range (8 * msg.length)).map fun k => (msg.getD (k / 8) 0).getLsbD (7 - k % 8) := by
  simp only [msbStream, lowBitsMsbFirst_eight]
  exact flatMap_map_range 8 (fun (b : Byte) k => b.getLsbD (7 - k)) 0 msg

theorem lsbStream_eq_map_range (msg : List Byte) :
    lsbStream msg = (List.range (8 * msg.length)).map fun k => (msg.getD (k / 8) 0).getLsbD (k % 8) := by
  simp only [lsbStream, lowBitsLsbFirst_eq_map]
  exact flatMap_map_range 8 (fun (b : Byte) k => b.getLsbD k) 0 msg

/-- Settles O10: each stream is the list of its indexed bits. -/
theorem crcRunsOverTheBitStream : Obligations.CrcRunsOverTheBitStream := fun w p i msg =>
  ⟨by rw [crcMsb, msbStream_eq_map_range, List.foldl_map], by rw [crcLsb, lsbStream_eq_map_range, List.foldl_map]⟩

/-! ### The byte-wise forms (R131) -/

/-- Settles O12: the generators of the two datapaths agree at every width above 0, LSB-first from width 8 on. -/
theorem parallelCrcEqualsSerial : Obligations.ParallelCrcEqualsSerial := by
  have hmsb : ∀ w ∈ [4, 7, 8, 16], 0 < w := by decide
  have hlsb : ∀ w ∈ [8, 16], 8 ≤ w := by decide
  exact ⟨fun impl w p i msg hw => congrFun (crcMsbBy_eq_crcMsb impl (hmsb w hw) p i) msg,
    fun impl w p i msg hw => congrFun (crcLsbBy_eq_crcLsb impl (hlsb w hw) p i) msg⟩

/-! ### The mirror law (R132 item 4) -/

theorem reverse_xor {w : Nat} (x y : BitVec w) : (x ^^^ y).reverse = x.reverse ^^^ y.reverse := by
  ext i hi
  simp only [BitVec.getElem_xor, BitVec.getElem_reverse, BitVec.getMsbD_xor]

theorem reverse_shiftLeft_one {w : Nat} (x : BitVec w) : (x <<< 1).reverse = x.reverse >>> 1 := by
  ext i hi
  rw [BitVec.getElem_reverse, BitVec.getMsbD_shiftLeft, BitVec.getElem_ushiftRight, BitVec.getLsbD_reverse,
    Nat.add_comm]

theorem getLsbD_zero_reverse {w : Nat} (x : BitVec w) : x.reverse.getLsbD 0 = x.getLsbD (w - 1) := by
  rw [BitVec.getLsbD_reverse, ← BitVec.msb_eq_getMsbD_zero, BitVec.msb_eq_getLsbD_last]

/-- StepLsb is StepMsb seen in a mirror: the top bit is bit 0, and a shift to the left is one to the right (R122). -/
theorem stepLsb_reverse {w : Nat} (p r : BitVec w) (b : Bool) :
    stepLsb p.reverse r.reverse b = (stepMsb p r b).reverse := by
  rw [stepLsb, stepMsb, getLsbD_zero_reverse, apply_ite BitVec.reverse, reverse_xor, reverse_shiftLeft_one]

theorem lsbStream_map_rev8 (msg : List Byte) : lsbStream (msg.map rev8) = msbStream msg := by
  rw [← msbStream_map_rev8, List.map_map, Function.Involutive.comp_self rev8_rev8, List.map_id]

/-- Settles O15: the reflected message gives the LSB-first core the bits of the MSB-first one, and each step of the one
mirrors that of the other. -/
theorem crcMirrorLaw : Obligations.CrcMirrorLaw := by
  intro w p i msg
  rw [crcLsb, crcMsb, lsbStream_map_rev8]
  exact List.foldl_hom BitVec.reverse (stepLsb_reverse p)

end Sys2Proof.Machine

/-! The LFSR digest (42_lfsr_digest.md): its laws over a list of bits, and the two commands that compute it. -/

namespace Sys2Proof.Machine

/-! ### The laws of the digest (R154) -/

@[simp] theorem digest_nil {w : Nat} (g key : BitVec w) : digest g key [] = 0 := rfl

/-- The accumulator only collects: what it starts from is one more summand of the result. -/
theorem foldl_digestStep_fst {w : Nat} (g : BitVec w) (bits : List Bool) :
    ∀ acc key : BitVec w, (bits.foldl (digestStep g) (acc, key)).1 = acc ^^^ digest g key bits := by
  induction bits with
  | nil => simp
  | cons b bits ih =>
    intro acc key
    rw [digest, List.foldl_cons, List.foldl_cons, digestStep, digestStep, ih, ih]
    cases b <;> simp [BitVec.xor_assoc]

/-- The first bit contributes the key it meets, and the rest is the digest from the next key (R151). -/
theorem digest_cons {w : Nat} (g key : BitVec w) (b : Bool) (bits : List Bool) :
    digest g key (b :: bits) = (if b then key else 0) ^^^ digest g (keyStep g key) bits := by
  rw [digest, List.foldl_cons, digestStep, foldl_digestStep_fst]
  simp

/-- The Toeplitz form: a sum of the keys K_k at the 1 bits, from any starting value (R154 item 1). -/
theorem foldl_keys_eq_xor_digest {w : Nat} (g : BitVec w) (bits : List Bool) : ∀ acc key : BitVec w,
    (List.range bits.length).foldl
      (fun acc k => if bits.getD k false then acc ^^^ (keyStep g)^[k] key else acc) acc =
        acc ^^^ digest g key bits := by
  induction bits with
  | nil => simp
  | cons b bits ih =>
    intro acc key
    rw [digest_cons, ← BitVec.xor_assoc, List.length_cons, List.range_succ_eq_map, List.foldl_cons, List.foldl_map]
    simp only [List.getD_cons_zero, List.getD_cons_succ, Function.iterate_succ_apply, Function.iterate_zero_apply, ih]
    cases b <;> simp

/-- R154 item 2: a bit of the XOR contributes the key exactly when one of the two bits does. -/
theorem digest_zipWith_xor {w : Nat} (g : BitVec w) (a : List Bool) : ∀ (key : BitVec w) (b : List Bool),
    a.length = b.length → digest g key (List.zipWith Bool.xor a b) = digest g key a ^^^ digest g key b := by
  induction a with
  | nil =>
    intro key b h
    obtain rfl := List.eq_nil_of_length_eq_zero h.symm
    simp
  | cons x a ih =>
    intro key b h
    cases b with
    | nil => cases h
    | cons y b =>
      have hkey : (if x.xor y then key else 0) = (if x then key else 0) ^^^ (if y then key else 0) := by
        cases x <;> cases y <;> simp
      rw [List.zipWith_cons_cons, digest_cons, digest_cons, digest_cons, ih _ _ (Nat.succ.inj h), hkey]
      ac_rfl

/-- R154 item 4: the second part is digested from the key that the first part leaves. -/
theorem digest_append {w : Nat} (g : BitVec w) (a b : List Bool) : ∀ key : BitVec w,
    digest g key (a ++ b) = digest g key a ^^^ digest g ((keyStep g)^[a.length] key) b := by
  induction a with
  | nil => simp
  | cons x a ih =>
    intro key
    rw [List.cons_append, digest_cons, digest_cons, ih, List.length_cons, Function.iterate_succ_apply, BitVec.xor_assoc]

/-- Settles O17: the Toeplitz form from 0, linearity and concatenation, each by induction on the bits. -/
theorem digestLaws : Obligations.DigestLaws := fun _ g key =>
  ⟨fun bits => ((foldl_keys_eq_xor_digest g bits 0 key).trans BitVec.zero_xor).symm,
    fun a => digest_zipWith_xor g a key, fun a b => digest_append g a b key⟩

/-! ### LFSR8 and LFSR16 -/

theorem lowBitsMsbFirst_eq_map {w : Nat} (v : BitVec w) (n : Nat) :
    lowBitsMsbFirst v n = (List.range n).map fun k => v.getLsbD (n - 1 - k) := by
  induction n with
  | zero => rfl
  | succ n ih =>
    rw [lowBitsMsbFirst, ih, List.range_succ_eq_map, List.map_cons, List.map_map]
    refine congrArg (v.getLsbD n :: ·) (List.map_congr_left fun k _ => ?_)
    rw [Function.comp_apply, show n + 1 - 1 - k.succ = n - 1 - k by omega]

/-- A command of a counted number of bits completes without a race with the result of its snapshot (R153, R205). -/
theorem overCountedBits_unraced {w : Nat} {s : State} {S : Snapshot} (hS : s.snapshot = some S) (hr : S.raced = false)
    (hbits : S.bits.toNat ≤ 32) (f : Snapshot → BitVec w) :
    overCountedBits s f = .next { s with
      result := (f S).setWidth 32, done := true, snapshot := none, resultUnseen := true } := by
  rw [overCountedBits_eq f hS ((bitCountOk_iff _).2 hbits), State.completeValue_operands s hr]

/-- Settles O18: the span passed validation, and the bits of a message are those R62 names. -/
theorem lfsr8WritesTheDigest : Obligations.Lfsr8WritesTheDigest := by
  intro s S msg hS hr hvalid hmsg
  rw [← msbStream_eq_map_range]
  exact overMessage_written hS hr ((spanInMbuf_iff _ _ _).2 (hvalid.1 rfl)) hmsg _

/-- Settles O19: GEN and KEY are whole at width 16, and the bits of DATA are taken from the top of the BITS lowest. -/
theorem lfsr16WritesTheDigest : Obligations.Lfsr16WritesTheDigest := by
  intro s S hS hr hbits
  have hexec := overCountedBits_unraced hS hr hbits fun S => digest (S.genOf 16) (S.keyOf 16) S.dataBits
  rw [Snapshot.genOf, Snapshot.keyOf, Snapshot.dataBits, BitVec.setWidth_eq, BitVec.setWidth_eq,
    lowBitsMsbFirst_eq_map] at hexec
  exact hexec

end Sys2Proof.Machine

/-! The reductions (43_parity_sum.md): what they compute, their laws, and the three commands over a message that compute
them. -/

namespace Sys2Proof.Machine

/-! ### PARITYB and ADDB as sums (R171, R173) -/

theorem foldl_add_ofNat {w : Nat} (f : Byte → Nat) (msg : List Byte) : ∀ t : BitVec w,
    msg.foldl (fun t b => t + BitVec.ofNat w (f b)) t = t + BitVec.ofNat w (msg.map f).sum := by
  induction msg with
  | nil => simp
  | cons b msg ih =>
    intro t
    rw [List.foldl_cons, ih, List.map_cons, List.sum_cons, BitVec.ofNat_add, BitVec.add_assoc]

/-- On one bit XOR is addition, so a fold of parities is a sum mod 2. -/
theorem xor_parity_eq_add_ofNat (p : BitVec 1) (b : Byte) : p ^^^ parity b = p + BitVec.ofNat 1 (popcount b) := by
  have xor_eq_add : ∀ p q : BitVec 1, p ^^^ q = p + q := by decide
  rw [xor_eq_add, parity]
  exact congrArg (p + ·) (BitVec.eq_of_toNat_eq (by simp))

theorem parityBytes_eq_ofNat_sum (msg : List Byte) : parityBytes msg = BitVec.ofNat 1 (msg.map popcount).sum := by
  simp only [parityBytes, xor_parity_eq_add_ofNat, foldl_add_ofNat]
  exact BitVec.zero_add _

theorem addBytes_eq_ofNat_sum (msg : List Byte) : addBytes msg = BitVec.ofNat 32 (msg.map BitVec.toNat).sum := by
  simp only [addBytes, ← BitVec.ofNat_toNat, foldl_add_ofNat]
  exact BitVec.zero_add _

theorem toNat_parityBytes (msg : List Byte) : (parityBytes msg).toNat = (msg.map popcount).sum % 2 := by
  rw [parityBytes_eq_ofNat_sum, BitVec.toNat_ofNat, pow_one]

theorem toNat_addBytes (msg : List Byte) : (addBytes msg).toNat = (msg.map BitVec.toNat).sum % 2 ^ 32 := by
  rw [addBytes_eq_ofNat_sum, BitVec.toNat_ofNat]

theorem sum_toNat_le (msg : List Byte) : (msg.map BitVec.toNat).sum ≤ 255 * msg.length := by
  have hle : ∀ n ∈ msg.map BitVec.toNat, n ≤ 255 := by
    intro n hn
    obtain ⟨b, -, rfl⟩ := List.mem_map.1 hn
    exact Nat.le_of_lt_succ b.isLt
  simpa [Nat.mul_comm] using List.sum_le_card_nsmul _ _ hle

/-! ### XORB bit by bit (R172), and its parity (R174) -/

theorem decide_odd_succ (n : Nat) : decide ((n + 1) % 2 = 1) = !decide (n % 2 = 1) := by
  rw [← decide_not, decide_eq_decide]
  omega

theorem getLsbD_foldl_xor (k : Nat) (msg : List Byte) : ∀ x : Byte,
    (msg.foldl (· ^^^ ·) x).getLsbD k =
      (x.getLsbD k ^^ decide ((msg.filter fun b => b.getLsbD k).length % 2 = 1)) := by
  induction msg with
  | nil => simp
  | cons b msg ih =>
    intro x
    rw [List.foldl_cons, ih, BitVec.getLsbD_xor, Bool.xor_assoc]
    cases hb : b.getLsbD k with
    | false => simp [hb]
    | true => simp [hb, decide_odd_succ]

theorem getLsbD_xorBytes (msg : List Byte) (k : Nat) :
    (xorBytes msg).getLsbD k = decide ((msg.filter fun b => b.getLsbD k).length % 2 = 1) := by
  rw [xorBytes, getLsbD_foldl_xor]
  simp

theorem count_true_lowBitsMsbFirst_xor {w : Nat} (x y : BitVec w) (n : Nat) :
    (lowBitsMsbFirst (x ^^^ y) n).count true % 2 =
      ((lowBitsMsbFirst x n).count true + (lowBitsMsbFirst y n).count true) % 2 := by
  induction n with
  | zero => rfl
  | succ n ih =>
    simp only [lowBitsMsbFirst, BitVec.getLsbD_xor, List.count_cons]
    cases x.getLsbD n <;> cases y.getLsbD n <;> simp <;> omega

theorem parity_xor (a b : Byte) : parity (a ^^^ b) = parity a ^^^ parity b := by
  rw [xor_parity_eq_add_ofNat, parity, parity, ← BitVec.ofNat_add]
  apply BitVec.eq_of_toNat_eq
  have hcount : popcount (a ^^^ b) % 2 = (popcount a + popcount b) % 2 := count_true_lowBitsMsbFirst_xor a b 8
  simp [hcount]

/-- R174: parity is additive, so it passes through the fold of XORB. -/
theorem parityBytes_eq_parity_xorBytes (msg : List Byte) : parityBytes msg = parity (xorBytes msg) :=
  List.foldl_hom (init := (0 : Byte)) parity fun x b => (parity_xor x b).symm

/-! ### The order of the bytes (R174) -/

theorem xorBytes_perm {a b : List Byte} (h : a.Perm b) : xorBytes a = xorBytes b := h.foldl_eq 0

theorem parityBytes_perm {a b : List Byte} (h : a.Perm b) : parityBytes a = parityBytes b := by
  rw [parityBytes_eq_parity_xorBytes, parityBytes_eq_parity_xorBytes, xorBytes_perm h]

theorem addBytes_perm {a b : List Byte} (h : a.Perm b) : addBytes a = addBytes b := by
  rw [addBytes_eq_ofNat_sum, addBytes_eq_ofNat_sum, (h.map _).sum_eq]

/-! ### The three statements -/

/-- Settles O20: each is a completion over a written message, and the result of ADDB is as wide as RESULT. -/
theorem reductionCommandsWriteTheirResults : Obligations.ReductionCommandsWriteTheirResults := by
  intro s S msg hS hr hvalid hmsg
  have result {w : Nat} (f : Snapshot → List Byte → BitVec w) :=
    overMessage_written hS hr ((spanInMbuf_iff _ _ _).2 (hvalid.1 rfl)) hmsg f
  have addb := result fun _ => addBytes
  rw [BitVec.setWidth_eq] at addb
  exact ⟨result fun _ => parityBytes, result fun _ => xorBytes, addb⟩

/-- Settles O21: up to 2^20 bytes the sum stays below 255 * 2^20, so the reduction mod 2^32 leaves it as it is. -/
theorem reductionsAsStated : Obligations.ReductionsAsStated := by
  intro msg
  refine ⟨toNat_parityBytes msg, fun k _ => getLsbD_xorBytes msg k, toNat_addBytes msg, fun hlen => ?_⟩
  have hsum := sum_toNat_le msg
  rw [toNat_addBytes]
  omega

/-- Settles O22: parity passes through XORB, the reductions are sums and XORs, and the sum is at most 255 per byte. -/
theorem reductionLaws : Obligations.ReductionLaws :=
  ⟨parityBytes_eq_parity_xorBytes, fun _ _ h => ⟨xorBytes_perm h, parityBytes_perm h, addBytes_perm h⟩,
    fun msg => (toNat_addBytes msg).trans_le ((Nat.mod_le _ _).trans (sum_toNat_le msg))⟩

end Sys2Proof.Machine

/-! Exceptions (60_exceptions.md): the CMD write, and where a completion runs, stops and what it leaves unchanged. -/

namespace Sys2Proof.Machine

/-! ### A CMD write (R201, R202, R204) -/

theorem writeCmd_busy {s : State} (hb : s.busy = true) (v : Word) : s.writeCmd v = s.dropCommand := if_pos hb

/-- Settles O31: the write of a dropped command. -/
theorem commandWhileBusyIsDropped : Obligations.CommandWhileBusyIsDropped := by
  intro s v hb
  calc s.access (.write 0x000 .word v)
      = (s.writeCmd v).respond .ok none := access_write_reg s .cmd v
    _ = s.dropCommand.respond .ok none := by rw [writeCmd_busy hb]

/-- Validate on a word of a command: the length before the bit count (R202, R208). -/
theorem validate_of_decode (s : State) {v : Word} {i : Instr} (h : decode v = .ok i) :
    s.validate v =
      if readsMessage i && !spanInMbuf s.msgBase s.msgLen s.cap then .invalidLength
      else if i == .lfsr16 && !bitCountOk s.bits then .invalidBitCount
      else .none := by
  rw [State.validate, h]

/-- A CMD write while idle refuses or accepts as validation says (R201). -/
theorem access_writeCmd_idle {s : State} {v : Word} {e : ErrCode} (hb : s.busy = false) (he : s.validate v = e) :
    s.access (.write 0x000 .word v) =
      { s with
        cmd := v, done := false, err := e
        snapshot := if e = .none then some (s.capture v) else none
        response := some ⟨.ok, none⟩ } := by
  have hsnap : s.snapshot = none := by simpa [State.busy] using hb
  rw [show s.access (.write 0x000 .word v) = (s.writeCmd v).respond .ok none from access_write_reg s .cmd v]
  rcases writeCmd_cases s v with ⟨hbusy, _⟩ | ⟨_, hv, heq⟩ | ⟨_, hv, heq⟩
  · simp [hb] at hbusy
  · obtain rfl : e = .none := he.symm.trans hv
    rw [heq, if_pos rfl]
    rfl
  · rw [heq, he, if_neg (he ▸ hv), ← hsnap]
    rfl

theorem spanInMbuf_eq_false_iff (base len : Word) (cap : Nat) :
    spanInMbuf base len cap = false ↔ len.toNat ≠ 0 ∧ cap < base.toNat + len.toNat := by
  rw [← Bool.not_eq_true, spanInMbuf_iff, Classical.not_imp, not_le]

theorem bitCountOk_eq_false_iff (bits : BitVec 8) : bitCountOk bits = false ↔ 32 < bits.toNat := by
  rw [← Bool.not_eq_true, bitCountOk_iff, not_le]

theorem mem_messageCommands_iff (i : Instr) :
    i ∈ [Instr.reflect, .crc4, .crc7, .crc8, .crc8le, .crc16, .crc16lsb, .lfsr8, .parityb, .xorb, .addb] ↔
      readsMessage i = true := by
  cases i <;> decide

/-- Settles O30: the outcome of validation, and what an accepted and a refused command write. -/
theorem issueValidatesAndCaptures : Obligations.IssueValidatesAndCaptures := by
  intro s v hb after badLength badCount
  have write {e : ErrCode} (he : s.validate v = e) := access_writeCmd_idle hb he
  refine ⟨fun ⟨d, hd⟩ => write (validate_of_illegal s hd), fun i hi => ?_⟩
  have hvalidate := validate_of_decode s hi
  have hlength : badLength i ↔ (readsMessage i && !spanInMbuf s.msgBase s.msgLen s.cap) = true := by
    simp only [badLength, mem_messageCommands_iff, ← spanInMbuf_eq_false_iff, Bool.and_eq_true, Bool.not_eq_true']
  have hcount : badCount i ↔ (i == .lfsr16 && !bitCountOk s.bits) = true := by
    simp only [badCount, ← bitCountOk_eq_false_iff, Bool.and_eq_true, Bool.not_eq_true', beq_iff_eq]
  refine ⟨fun hl => write ?_, fun hc => write ?_, fun hl hc => write ?_⟩
  · rw [hvalidate, if_pos (hlength.1 hl)]
  · have hnoLength : ¬ badLength i := by
      rw [hlength, hc.1]
      exact Bool.false_ne_true
    rw [hvalidate, if_neg (mt hlength.2 hnoLength), if_pos (hcount.1 hc)]
  · rw [hvalidate, if_neg (mt hlength.2 hl), if_neg (mt hcount.2 hc)]

/-! ### Where a completion stops (log entry 10) -/

theorem withSnapshot_none {s : State} (hS : s.snapshot = none) (k : Snapshot → Host.Outcome State Fault Refusal) :
    withSnapshot s k = .refused .noCommandInFlight := by
  rw [withSnapshot, hS]

theorem withSnapshot_some {s : State} {S : Snapshot} (hS : s.snapshot = some S)
    (k : Snapshot → Host.Outcome State Fault Refusal) : withSnapshot s k = k S := by
  rw [withSnapshot, hS]

theorem withSpan_outside {s : State} {S : Snapshot} (hS : s.snapshot = some S)
    (hspan : spanInMbuf S.base S.len s.cap = false) (k : Snapshot → State) :
    withSpan s k = .fault .spanOutsideMbuf := by
  rw [withSpan, withSnapshot_some hS, hspan]
  rfl

theorem overCountedBits_tooMany {w : Nat} {s : State} {S : Snapshot} (hS : s.snapshot = some S)
    (hbits : bitCountOk S.bits = false) (f : Snapshot → BitVec w) :
    overCountedBits s f = .fault .bitCountTooLarge := by
  rw [overCountedBits, withSnapshot_some hS, hbits]
  rfl

/-- Settles O24: every command asks for its snapshot first, and the eleven over a message for their span. -/
theorem unvalidatedCommandsStop : Obligations.UnvalidatedCommandsStop := by
  refine ⟨fun i s hS => ?_, fun i s S hS hread hlen hspan => ?_, fun s S hS hbits => ?_⟩
  · cases i <;> exact withSnapshot_none hS _
  · have hout := withSpan_outside hS ((spanInMbuf_eq_false_iff ..).2 ⟨hlen, hspan⟩)
    cases i with
    | rev8 | lfsr16 | parity8 => cases hread
    | _ => exact hout _
  · exact overCountedBits_tooMany hS ((bitCountOk_eq_false_iff _).2 hbits) _

/-! ### The completion of a validated command (R205) -/

/-- The cells that command `i` reads: those of its span, if it reads a message (R24, R61). -/
def Snapshot.cellsRead (S : Snapshot) (i : Instr) (m : Memory) : List (Option Byte) :=
  if readsMessage i then S.cells m else []

theorem hasUninit_cellsRead (S : Snapshot) (i : Instr) (m : Memory) :
    hasUninit (S.cellsRead i m) = true ↔ readsMessage i = true ∧ ∃ a, S.inSpan a = true ∧ m.read a = none := by
  unfold Snapshot.cellsRead
  split
  case isFalse hread => exact iff_of_false nofun fun h => hread h.1
  case isTrue hread =>
    refine ⟨fun h => ⟨hread, ?_⟩, fun ⟨_, a, ha, hnone⟩ => ?_⟩
    · by_contra! hno
      obtain ⟨msg, hmsg⟩ := (S.span_written_iff m).1 fun a ha => Option.isSome_iff_ne_none.2 (hno a ha)
      rw [hmsg, hasUninit_written] at h
      cases h
    · obtain ⟨h1, h2⟩ := (inSpan_iff S a).1 ha
      exact hasUninit_cells ⟨a - S.base.toNat, by omega, by rwa [Nat.add_sub_of_le h1]⟩

/-- What a command that passed validation does, in every form: REFLECT rewrites its span, any other command writes a
value of the cells it reads to RESULT. -/
theorem exec_validated {i : Instr} {s : State} {S : Snapshot} (hS : s.snapshot = some S) (hv : S.validFor i s.cap) :
    (i = .reflect ∧ exec i s = .next ((s.reflectSpan S).finish S)) ∨
      ∃ (w : Nat) (f : List Byte → BitVec w), exec i s = .next (s.completeValue S (S.cellsRead i s.mbuf) f) := by
  have hspan (hread : readsMessage i = true) := (spanInMbuf_iff S.base S.len s.cap).2 (hv.1 hread)
  cases i with
  | reflect => exact .inl ⟨rfl, withSpan_eq _ hS (hspan rfl)⟩
  | rev8 | parity8 => exact .inr ⟨_, _, overOperands_eq _ hS⟩
  | lfsr16 => exact .inr ⟨_, _, overCountedBits_eq _ hS ((bitCountOk_iff _).2 (hv.2 rfl))⟩
  | _ => exact .inr ⟨_, _, overMessage_eq _ hS (hspan rfl)⟩

/-- Settles O23: neither form of a completion touches another field, and both record the UNINIT cells they read. -/
theorem everyValidatedCommandCompletes : Obligations.EveryValidatedCommandCompletes := by
  intro i s S hS hv
  have hfault (t : State)
      (ht : t.faults = { s.faults with uninitRead := s.faults.uninitRead || hasUninit (S.cellsRead i s.mbuf) }) :
      t.faults.msgRace = s.faults.msgRace ∧ (t.faults.uninitRead = true ↔ s.faults.uninitRead = true ∨
        (readsMessage i = true ∧ ∃ a, S.inSpan a = true ∧ s.mbuf.read a = none)) := by
    rw [ht, Bool.or_eq_true, hasUninit_cellsRead]
    exact ⟨rfl, Iff.rfl⟩
  rcases exec_validated hS hv with ⟨rfl, hexec⟩ | ⟨w, f, hexec⟩ <;>
    exact ⟨_, hexec, rfl, rfl, rfl, rfl, rfl, exec_sameOperandRegisters hexec, rfl, rfl, rfl, rfl, rfl, rfl,
      hfault _ rfl⟩

/-! ### The engine's turn -/

theorem engineTurn_eq_exec {s : State} {S : Snapshot} {i : Instr} (hS : s.snapshot = some S)
    (hi : decode S.cmd = .ok i) : engineTurn s = exec i s := by
  simp only [engineTurn, hS, hi]

/-- Settles O50: the engine's turn, from the schedule or because a command is in flight. -/
theorem stepRunsTheDecodedCommand : Obligations.StepRunsTheDecodedCommand := by
  intro s S i hS hi
  refine ⟨fun ts hts => ?_, fun hnil => ?_⟩
  · rw [step, hts]
    exact engineTurn_eq_exec (s := { s with schedule := ts }) hS hi
  · have hdue : s.dueTurn = .engine := if_pos (Option.isSome_of_eq_some hS)
    rw [step, hnil, hdue]
    exact engineTurn_eq_exec hS hi

theorem exec_validated_next {i : Instr} {s : State} {S : Snapshot} (hS : s.snapshot = some S)
    (hv : S.validFor i s.cap) : ∃ t, exec i s = .next t := by
  obtain ⟨t, ht, _⟩ := everyValidatedCommandCompletes i s S hS hv
  exact ⟨t, ht⟩

theorem State.Inv.engineTurn_completes {s : State} (h : s.Inv) : ∃ t, engineTurn s = .next t := by
  cases hS : s.snapshot with
  | none => exact ⟨s, by rw [engineTurn, hS]⟩
  | some S =>
    obtain ⟨⟨i, hi, hv⟩, _⟩ := h.inFlightValidated S hS
    rw [engineTurn_eq_exec hS hi]
    exact exec_validated_next hS hv

/-- Settles O54: only the engine can stop, and the command in flight passed validation. -/
theorem stepNeverStops : Obligations.StepNeverStops := by
  intro s h
  rw [step_eq]
  cases s.turn with
  | host => exact ⟨_, rfl⟩
  | engine => exact h.turned.engineTurn_completes
  | warmReset => exact ⟨_, rfl⟩

end Sys2Proof.Machine

/-! A result over a message with UNINIT cells (R205, S2 of 93_implementation_defined.md): the model sets one bit of one
such cell at a time (log entry 7), and that decides whether any two fillings of them differ, since every result is
affine over GF(2) or a sum. -/

namespace Sys2Proof.Machine

/-! ### Fillings -/

/-- The message keeps the cells that are written and gives each UNINIT cell some byte. -/
inductive Fills : List (Option Byte) → List Byte → Prop where
  | nil : Fills [] []
  | written {cs : List (Option Byte)} {msg : List Byte} (b : Byte) : Fills cs msg → Fills (some b :: cs) (b :: msg)
  | uninit {cs : List (Option Byte)} {msg : List Byte} (b : Byte) : Fills cs msg → Fills (none :: cs) (b :: msg)

theorem Fills.length_eq {cs : List (Option Byte)} {msg : List Byte} (h : Fills cs msg) : msg.length = cs.length := by
  induction h with
  | nil => rfl
  | written b _ ih | uninit b _ ih => rw [List.length_cons, List.length_cons, ih]

theorem zeroFill_fills (cs : List (Option Byte)) : Fills cs (zeroFill cs) := by
  induction cs with
  | nil => exact .nil
  | cons c cs ih =>
    cases c with
    | none => exact .uninit 0 ih
    | some b => exact .written b ih

theorem fills_of_mem_probes {cs : List (Option Byte)} : ∀ {msg : List Byte}, msg ∈ probes cs → Fills cs msg := by
  induction cs with
  | nil => exact nofun
  | cons c cs ih =>
    intro msg h
    cases c with
    | some b =>
      obtain ⟨p, hp, rfl⟩ := List.mem_map.1 h
      exact .written b (ih hp)
    | none =>
      rcases List.mem_append.1 h with h | h
      · obtain ⟨j, _, rfl⟩ := List.mem_map.1 h
        exact .uninit _ (zeroFill_fills cs)
      · obtain ⟨p, hp, rfl⟩ := List.mem_map.1 h
        exact .uninit 0 (ih hp)

/-- The two halves of the probes of a message that begins with an UNINIT cell. -/
theorem forall_mem_probes_none {cs : List (Option Byte)} {P : List Byte → Prop} :
    (∀ p ∈ probes (none :: cs), P p) ↔
      (∀ j < 8, P (BitVec.twoPow 8 j :: zeroFill cs)) ∧ ∀ p ∈ probes cs, P (0 :: p) := by
  simp only [probes, List.forall_mem_append, List.forall_mem_map, List.mem_range]

/-- If no single bit of an UNINIT cell changes `f`, no filling does. -/
def ProbesDecide {w : Nat} (f : List Byte → BitVec w) : Prop :=
  ∀ cs msg, Fills cs msg → (∀ p ∈ probes cs, f p = f (zeroFill cs)) → f msg = f (zeroFill cs)

theorem dependsOnUninit_eq_true_iff {w : Nat} (f : List Byte → BitVec w) (cs : List (Option Byte)) :
    dependsOnUninit f cs = true ↔ ∃ p ∈ probes cs, f p ≠ f (zeroFill cs) := by
  simp [dependsOnUninit]

theorem ProbesDecide.eq_zeroFill {w : Nat} {f : List Byte → BitVec w} (hf : ProbesDecide f) {cs : List (Option Byte)}
    {msg : List Byte} (h : dependsOnUninit f cs = false) (hmsg : Fills cs msg) : f msg = f (zeroFill cs) := by
  refine hf cs msg hmsg fun p hp => ?_
  by_contra hne
  rw [(dependsOnUninit_eq_true_iff f cs).2 ⟨p, hp, hne⟩] at h
  cases h

/-! ### Results that are affine over GF(2) -/

/-- `f` is affine over GF(2) on the messages of each length, with `g` its linear part. -/
def XorAffine {w : Nat} (f g : List Byte → BitVec w) : Prop :=
  ∀ a d : List Byte, a.length = d.length → f (List.zipWith (· ^^^ ·) a d) = f a ^^^ g d

theorem zipWith_xor_replicate_zero (msg : List Byte) :
    List.zipWith (· ^^^ ·) msg (List.replicate msg.length 0) = msg := by
  induction msg with
  | nil => rfl
  | cons b msg ih => exact congrArg₂ List.cons BitVec.xor_zero ih

theorem XorAffine.cons {w : Nat} {f g : List Byte → BitVec w} (h : XorAffine f g) (b : Byte) :
    XorAffine (fun msg => f (b :: msg)) (fun msg => g (0 :: msg)) := by
  intro a d hlen
  have hcons := h (b :: a) (0 :: d) (congrArg (· + 1) hlen)
  simpa using hcons

/-- What a change of the first byte alone adds to the result. -/
theorem XorAffine.cons_xor {w : Nat} {f g : List Byte → BitVec w} (h : XorAffine f g) (x y : Byte) (msg : List Byte) :
    f ((x ^^^ y) :: msg) = f (x :: msg) ^^^ g (y :: List.replicate msg.length 0) := by
  rw [← h _ _ (by simp), List.zipWith_cons_cons, zipWith_xor_replicate_zero]

/-- The low `n + 1` bits are the low `n` bits with bit `n` flipped, if it is set. -/
theorem setWidth_succ_eq_xor_twoPow {w n : Nat} {x : BitVec w} (hbit : x.getLsbD n = true) :
    (x.setWidth (n + 1)).setWidth w = (x.setWidth n).setWidth w ^^^ BitVec.twoPow w n := by
  refine BitVec.eq_of_getLsbD_eq fun k hk => ?_
  rw [BitVec.getLsbD_xor, BitVec.getLsbD_twoPow]
  by_cases h : n = k
  · subst h
    simp [hk, hbit]
  · have hlt : k < n + 1 ↔ k < n := by omega
    simp [h, hlt]

/-- What holds of 0, and after a flip of any bit, holds of every word. -/
theorem bitVec_flip_induction {w : Nat} {P : BitVec w → Prop} (zero : P 0)
    (flip : ∀ j < w, ∀ x, P x → P (x ^^^ BitVec.twoPow w j)) (x : BitVec w) : P x := by
  have hlow : ∀ n ≤ w, P ((x.setWidth n).setWidth w) := by
    intro n
    induction n with
    | zero =>
      intro _
      rwa [BitVec.eq_nil (x.setWidth 0)]
    | succ n ih =>
      intro hn
      have hprev := ih (Nat.le_of_succ_le hn)
      cases hbit : x.getLsbD n with
      | false => rwa [BitVec.setWidth_setWidth_succ_eq_setWidth_setWidth_of_getLsbD_false hbit]
      | true =>
        rw [setWidth_succ_eq_xor_twoPow hbit]
        exact flip n hn _ hprev
  simpa using hlow w le_rfl

/-- An affine result that no single bit of the first byte changes does not depend on that byte. -/
theorem XorAffine.eq_of_head {w : Nat} {f g : List Byte → BitVec w} (h : XorAffine f g) {z msg : List Byte}
    (hlen : msg.length = z.length) (hbits : ∀ j < 8, f (BitVec.twoPow 8 j :: z) = f (0 :: z)) (x : Byte) :
    f (x :: msg) = f (0 :: msg) := by
  have hflip : ∀ j < 8, g (BitVec.twoPow 8 j :: List.replicate msg.length 0) = 0 := by
    intro j hj
    have hadd := h.cons_xor 0 (BitVec.twoPow 8 j) z
    rw [show 0 ^^^ BitVec.twoPow 8 j = BitVec.twoPow 8 j from BitVec.zero_xor, hbits j hj, ← hlen] at hadd
    exact (BitVec.xor_right_inj (f (0 :: z))).1 (hadd.symm.trans BitVec.xor_zero.symm)
  induction x using bitVec_flip_induction with
  | zero => rfl
  | flip j hj x ih =>
    rw [h.cons_xor, hflip j hj]
    exact BitVec.xor_zero.trans ih

theorem XorAffine.probesDecide {w : Nat} {f g : List Byte → BitVec w} (h : XorAffine f g) : ProbesDecide f := by
  intro cs msg hmsg
  induction hmsg generalizing f g with
  | nil => exact fun _ => rfl
  | written b _ ih => exact fun hp => ih (h.cons b) (List.forall_mem_map.1 hp)
  | @uninit cs msg b hmsg ih =>
    intro hp
    obtain ⟨hbits, htail⟩ := forall_mem_probes_none.1 hp
    have hlen : msg.length = (zeroFill cs).length := hmsg.length_eq.trans (zeroFill_fills cs).length_eq.symm
    calc f (b :: msg)
        = f (0 :: msg) := h.eq_of_head hlen hbits b
      _ = f (0 :: zeroFill cs) := ih (h.cons 0) htail

/-! ### Folds of linear steps: the reductions by XOR, and the serial steps -/

theorem foldl_zipWith_xor {α : Type} {w : Nat} {op : α → α → α} {step : BitVec w → α → BitVec w}
    (hstep : ∀ r s x y, step (r ^^^ s) (op x y) = step r x ^^^ step s y) (a : List α) :
    ∀ (b : List α) (r s : BitVec w), a.length = b.length →
      (List.zipWith op a b).foldl step (r ^^^ s) = a.foldl step r ^^^ b.foldl step s := by
  induction a with
  | nil =>
    intro b r s h
    obtain rfl := List.eq_nil_of_length_eq_zero h.symm
    rfl
  | cons x a ih =>
    intro b r s h
    cases b with
    | nil => cases h
    | cons y b =>
      rw [List.zipWith_cons_cons, List.foldl_cons, List.foldl_cons, List.foldl_cons, hstep]
      exact ih b _ _ (Nat.succ.inj h)

/-- A fold of steps that are linear in the register and the byte together is affine in the message. -/
theorem foldl_xorAffine {w : Nat} {step : BitVec w → Byte → BitVec w}
    (hstep : ∀ r s x y, step (r ^^^ s) (x ^^^ y) = step r x ^^^ step s y) (i : BitVec w) :
    XorAffine (fun msg => msg.foldl step i) (fun msg => msg.foldl step 0) := by
  intro a d hlen
  simpa using foldl_zipWith_xor hstep a d i 0 hlen

theorem xorBytes_xorAffine : XorAffine xorBytes xorBytes :=
  foldl_xorAffine (step := (· ^^^ ·)) (fun _ _ _ _ => by ac_rfl) 0

theorem parityBytes_xorAffine : XorAffine parityBytes parityBytes :=
  foldl_xorAffine (step := fun p b => p ^^^ parity b) (fun _ _ _ _ => by rw [parity_xor]; ac_rfl) 0

theorem ite_xor_ite {w : Nat} (b c : Bool) (x y p : BitVec w) :
    (if b ^^ c then x ^^^ y ^^^ p else x ^^^ y) = (if b then x ^^^ p else x) ^^^ (if c then y ^^^ p else y) := by
  have hcancel : x ^^^ p ^^^ (y ^^^ p) = x ^^^ y := by
    rw [show x ^^^ p ^^^ (y ^^^ p) = x ^^^ y ^^^ (p ^^^ p) by ac_rfl, BitVec.xor_self, BitVec.xor_zero]
  cases b <;> cases c
  · rfl
  · exact BitVec.xor_assoc x y p
  · exact show x ^^^ y ^^^ p = x ^^^ p ^^^ y by ac_rfl
  · exact hcancel.symm

/-- The serial steps are linear in the remainder and the message bit together (R132 item 3). -/
theorem stepMsb_xor {w : Nat} (p r s : BitVec w) (x y : Bool) :
    stepMsb p (r ^^^ s) (x ^^ y) = stepMsb p r x ^^^ stepMsb p s y := by
  have hfb : ((r ^^^ s).getLsbD (w - 1) ^^ (x ^^ y)) = ((r.getLsbD (w - 1) ^^ x) ^^ (s.getLsbD (w - 1) ^^ y)) := by
    simp only [BitVec.getLsbD_xor, Bool.xor_assoc, Bool.xor_left_comm x]
  simp only [stepMsb, hfb, BitVec.shiftLeft_xor_distrib, ite_xor_ite]

theorem stepLsb_xor {w : Nat} (p r s : BitVec w) (x y : Bool) :
    stepLsb p (r ^^^ s) (x ^^ y) = stepLsb p r x ^^^ stepLsb p s y := by
  have hfb : ((r ^^^ s).getLsbD 0 ^^ (x ^^ y)) = ((r.getLsbD 0 ^^ x) ^^ (s.getLsbD 0 ^^ y)) := by
    simp only [BitVec.getLsbD_xor, Bool.xor_assoc, Bool.xor_left_comm x]
  simp only [stepLsb, hfb, BitVec.ushiftRight_xor_distrib, ite_xor_ite]

/-! ### The bits of an XOR of messages (R62) -/

theorem length_lowBitsMsbFirst {w : Nat} (v : BitVec w) (n : Nat) : (lowBitsMsbFirst v n).length = n := by
  rw [lowBitsMsbFirst_eq_map, List.length_map, List.length_range]

theorem lowBitsMsbFirst_xor {w : Nat} (x y : BitVec w) (n : Nat) :
    lowBitsMsbFirst (x ^^^ y) n = List.zipWith Bool.xor (lowBitsMsbFirst x n) (lowBitsMsbFirst y n) := by
  induction n with
  | zero => rfl
  | succ n ih => rw [lowBitsMsbFirst, ih, BitVec.getLsbD_xor]; rfl

theorem lowBitsLsbFirst_xor {w : Nat} (x y : BitVec w) (n : Nat) :
    lowBitsLsbFirst (x ^^^ y) n = List.zipWith Bool.xor (lowBitsLsbFirst x n) (lowBitsLsbFirst y n) := by
  rw [lowBitsLsbFirst, lowBitsMsbFirst_xor, List.reverse_zipWith (by simp only [length_lowBitsMsbFirst])]
  rfl

theorem length_msbStream_congr {a d : List Byte} (h : a.length = d.length) :
    (msbStream a).length = (msbStream d).length := by
  simp only [msbStream_eq_map_range, List.length_map, List.length_range, h]

theorem length_lsbStream_congr {a d : List Byte} (h : a.length = d.length) :
    (lsbStream a).length = (lsbStream d).length := by
  simp only [lsbStream_eq_map_range, List.length_map, List.length_range, h]

theorem flatMap_zipWith_xor {bits : Byte → List Bool} (hlen : ∀ x y, (bits x).length = (bits y).length)
    (hxor : ∀ x y, bits (x ^^^ y) = List.zipWith Bool.xor (bits x) (bits y)) (a : List Byte) :
    ∀ d : List Byte, a.length = d.length →
      (List.zipWith (· ^^^ ·) a d).flatMap bits = List.zipWith Bool.xor (a.flatMap bits) (d.flatMap bits) := by
  induction a with
  | nil => exact fun _ _ => rfl
  | cons x a ih =>
    intro d h
    cases d with
    | nil => cases h
    | cons y d =>
      rw [List.zipWith_cons_cons, List.flatMap_cons, List.flatMap_cons, List.flatMap_cons, ih d (Nat.succ.inj h), hxor,
        List.zipWith_append (hlen x y)]

theorem msbStream_zipWith_xor {a d : List Byte} (h : a.length = d.length) :
    msbStream (List.zipWith (· ^^^ ·) a d) = List.zipWith Bool.xor (msbStream a) (msbStream d) :=
  flatMap_zipWith_xor (fun _ _ => rfl) (fun x y => lowBitsMsbFirst_xor x y 8) a d h

theorem lsbStream_zipWith_xor {a d : List Byte} (h : a.length = d.length) :
    lsbStream (List.zipWith (· ^^^ ·) a d) = List.zipWith Bool.xor (lsbStream a) (lsbStream d) :=
  flatMap_zipWith_xor (fun _ _ => rfl) (fun x y => lowBitsLsbFirst_xor x y 8) a d h

/-! ### The CRCs, the digest and the sum -/

theorem crcMsb_xorAffine {w : Nat} (p i : BitVec w) : XorAffine (crcMsb p i) (crcMsb p 0) := by
  intro a d hlen
  simpa [crcMsb, msbStream_zipWith_xor hlen] using
    foldl_zipWith_xor (stepMsb_xor p) _ _ i 0 (length_msbStream_congr hlen)

theorem crcLsb_xorAffine {w : Nat} (p i : BitVec w) : XorAffine (crcLsb p i) (crcLsb p 0) := by
  intro a d hlen
  simpa [crcLsb, lsbStream_zipWith_xor hlen] using
    foldl_zipWith_xor (stepLsb_xor p) _ _ i 0 (length_lsbStream_congr hlen)

theorem digest_xorAffine {w : Nat} (g key : BitVec w) :
    XorAffine (fun msg => digest g key (msbStream msg)) (fun msg => digest g key (msbStream msg)) := by
  intro a d hlen
  simpa only [msbStream_zipWith_xor hlen] using digest_zipWith_xor g _ key _ (length_msbStream_congr hlen)

theorem addBytes_cons (b : Byte) (msg : List Byte) : addBytes (b :: msg) = b.setWidth 32 + addBytes msg := by
  rw [addBytes_eq_ofNat_sum, addBytes_eq_ofNat_sum, List.map_cons, List.sum_cons, BitVec.ofNat_add, BitVec.ofNat_toNat]

/-- Bit 0 of an UNINIT cell changes the sum by 1, so where no probe changes it every cell is written. -/
theorem addBytes_probesDecide : ProbesDecide addBytes := by
  intro cs msg hmsg
  induction hmsg with
  | nil => exact fun _ => rfl
  | @written cs msg b _ ih =>
    intro hp
    have hp' : ∀ p ∈ probes cs, addBytes (b :: p) = addBytes (b :: zeroFill cs) := List.forall_mem_map.1 hp
    simp only [addBytes_cons, BitVec.add_right_inj] at hp'
    change addBytes (b :: msg) = addBytes (b :: zeroFill cs)
    rw [addBytes_cons, addBytes_cons, ih hp']
  | @uninit cs msg b _ _ =>
    intro hp
    have hbit : addBytes (BitVec.twoPow 8 0 :: zeroFill cs) = addBytes (0 :: zeroFill cs) :=
      (forall_mem_probes_none.1 hp).1 0 (by decide)
    rw [addBytes_cons, addBytes_cons, BitVec.add_left_inj] at hbit
    exact absurd hbit (by decide)

/-! ### A completion over a filled span -/

/-- What a command over a message computes, the same function of its snapshot and its message in every state and for
either IMPL (R131), and that the probes decide whether it depends on an UNINIT cell. -/
theorem exec_eq_overMessage {i : Instr} {w : Nat} (hread : readsMessage i = true) (hw : resultWidth i = some w) :
    ∃ f : Snapshot → List Byte → BitVec w, (∀ S, ProbesDecide (f S)) ∧ ∀ s, exec i s = overMessage s f := by
  cases i with
  | rev8 | lfsr16 | parity8 => cases hread
  | reflect => cases hw
  | crc4 | crc7 | crc8 | crc16 =>
    cases hw
    exact ⟨_, fun S => (crcMsb_xorAffine (S.polyOf _) (S.initOf _)).probesDecide, fun s =>
      congrArg (overMessage s) (funext fun S => crcMsbBy_eq_crcMsb s.impl (by decide) _ _)⟩
  | crc8le | crc16lsb =>
    cases hw
    exact ⟨_, fun S => (crcLsb_xorAffine (S.polyOf _) (S.initOf _)).probesDecide, fun s =>
      congrArg (overMessage s) (funext fun S => crcLsbBy_eq_crcLsb s.impl (by decide) _ _)⟩
  | lfsr8 =>
    cases hw
    exact ⟨_, fun S => (digest_xorAffine (S.genOf 8) (S.keyOf 8)).probesDecide, fun _ => rfl⟩
  | parityb =>
    cases hw
    exact ⟨_, fun _ => parityBytes_xorAffine.probesDecide, fun _ => rfl⟩
  | xorb =>
    cases hw
    exact ⟨_, fun _ => xorBytes_xorAffine.probesDecide, fun _ => rfl⟩
  | addb =>
    cases hw
    exact ⟨_, fun _ => addBytes_probesDecide, fun _ => rfl⟩

theorem resultWidth_le {i : Instr} {w : Nat} (hw : resultWidth i = some w) : w ≤ 32 := by
  cases i <;> cases hw <;> decide

theorem setWidth_inj_of_le {v w : Nat} (h : v ≤ w) {x y : BitVec v} (hxy : x.setWidth w = y.setWidth w) : x = y := by
  simpa [BitVec.setWidth_setWidth_of_le _ h] using congrArg (BitVec.setWidth v) hxy

theorem Memory.exists_cells_eq (msg : List Byte) : ∀ a, ∃ m : Memory, m.cells a msg.length = msg.map some := by
  induction msg with
  | nil => exact fun _ => ⟨[], rfl⟩
  | cons b msg ih =>
    intro a
    obtain ⟨m, hm⟩ := ih (a + 1)
    refine ⟨m.write a b, ?_⟩
    rw [List.length_cons, Memory.cells, Memory.read_write_self, List.map_cons, ← hm]
    exact congrArg _ (Memory.cells_congr _ _ fun x h _ => Memory.read_write_other m b (by omega))

/-- One cell of a filling: UNINIT and given a byte, or written and kept. -/
theorem cell_filled_iff {c c' : Option Byte} :
    (c'.isSome ∧ (c.isSome → c' = c)) ↔ ∃ b, c' = some b ∧ (c = none ∨ c = some b) := by
  cases c <;> cases c' <;> simp [eq_comm]

theorem fills_cons_iff {c : Option Byte} {cs : List (Option Byte)} {b : Byte} {msg : List Byte} :
    Fills (c :: cs) (b :: msg) ↔ (c = none ∨ c = some b) ∧ Fills cs msg := by
  constructor
  · rintro (_ | ⟨_, h⟩ | ⟨_, h⟩)
    · exact ⟨.inr rfl, h⟩
    · exact ⟨.inl rfl, h⟩
  · rintro ⟨rfl | rfl, h⟩
    · exact .uninit b h
    · exact .written b h

/-- Memory that fills a stretch of cells holds there a message that fills it, and the other way round. -/
theorem Memory.fills_cells_iff {m m' : Memory} (n : Nat) : ∀ a,
    (∀ x, a ≤ x → x < a + n → (m'.read x).isSome ∧ ((m.read x).isSome → m'.read x = m.read x)) ↔
      ∃ msg, m'.cells a n = msg.map some ∧ Fills (m.cells a n) msg := by
  induction n with
  | zero => exact fun a => ⟨fun _ => ⟨[], rfl, .nil⟩, fun _ x h1 h2 => absurd h1 (Nat.not_le.2 h2)⟩
  | succ n ih =>
    intro a
    constructor
    · intro h
      obtain ⟨b, hb, hc⟩ := cell_filled_iff.1 (h a le_rfl (by omega))
      obtain ⟨msg, hmsg, hfill⟩ := (ih (a + 1)).1 fun x h1 h2 => h x (by omega) (by omega)
      exact ⟨b :: msg, by rw [Memory.cells, hb, hmsg, List.map_cons], fills_cons_iff.2 ⟨hc, hfill⟩⟩
    · rintro ⟨_ | ⟨b, msg⟩, hmsg, hfill⟩ x h1 h2
      · cases hmsg
      · obtain ⟨hb, htail⟩ := List.cons.inj hmsg
        obtain ⟨hc, hfill⟩ := fills_cons_iff.1 hfill
        by_cases hx : x = a
        · exact hx ▸ cell_filled_iff.2 ⟨b, hb, hc⟩
        · exact (ih (a + 1)).2 ⟨msg, htail, hfill⟩ x (by omega) (by omega)

theorem Memory.fillsSpan_iff {m m' : Memory} {S : Snapshot} :
    m.fillsSpan m' S ↔ ∃ msg, S.cells m' = msg.map some ∧ Fills (S.cells m) msg := by
  simp only [Memory.fillsSpan, inSpan_iff, and_imp]
  exact Memory.fills_cells_iff _ _

section

variable {w : Nat} {s t : State} {S : Snapshot} {f : Snapshot → List Byte → BitVec w} (hS : s.snapshot = some S)
  (hr : S.raced = false)
include hS hr

/-- RESULT after a completion without a race: free if the probes find a dependence (R205, log entry 7). -/
theorem overMessage_result_uninit (h : overMessage s f = .next t) :
    t.result = (if dependsOnUninit (f S) (S.cells s.mbuf) then (Config.freeWord s.draws).setWidth w
      else f S (zeroFill (S.cells s.mbuf))).setWidth 32 := by
  obtain ⟨S', hS', _, rfl⟩ := overMessage_next h
  obtain rfl : S = S' := Option.some.inj (hS.symm.trans hS')
  rw [State.completeValue_result, resultOpen, hr, Bool.false_or]

/-- Over a filled span the result is that of the filling. -/
theorem overMessage_filled_result {m : Memory} (hm : s.mbuf.fillsSpan m S)
    (h : overMessage { s with mbuf := m } f = .next t) :
    ∃ msg, Fills (S.cells s.mbuf) msg ∧ t.result = (f S msg).setWidth 32 := by
  obtain ⟨msg, hmsg, hfill⟩ := Memory.fillsSpan_iff.1 hm
  exact ⟨msg, hfill, overMessage_result (s := { s with mbuf := m }) hS hr hmsg h⟩

/-- Every filling is that of some memory, over which the command completes with its result. -/
theorem exists_overMessage_filled {msg : List Byte} (hspan : spanInMbuf S.base S.len s.cap = true)
    (hfill : Fills (S.cells s.mbuf) msg) :
    ∃ m u, s.mbuf.fillsSpan m S ∧ overMessage { s with mbuf := m } f = .next u ∧
      u.result = (f S msg).setWidth 32 := by
  obtain ⟨m, hm⟩ := Memory.exists_cells_eq msg S.base.toNat
  have hmsg : S.cells m = msg.map some := by
    rwa [hfill.length_eq, Snapshot.cells, Memory.cells_length] at hm
  exact ⟨m, _, Memory.fillsSpan_iff.2 ⟨msg, hmsg, hfill⟩,
    overMessage_written (s := { s with mbuf := m }) hS hr hspan hmsg f, rfl⟩

end

/-- Settles O27: the probes and the filling with zeros are fillings themselves, so where they differ two fillings do;
where they agree, all fillings do. -/
theorem uninitResultOpenWhenItDepends : Obligations.UninitResultOpenWhenItDepends := by
  intro i w s t S hS hr hread hw h
  obtain ⟨f, hf, hexec⟩ := exec_eq_overMessage hread hw
  simp only [hexec] at h ⊢
  have hresult := overMessage_result_uninit hS hr h
  cases hdep : dependsOnUninit (f S) (S.cells s.mbuf) with
  | false =>
    rw [hdep] at hresult
    have hall {m : Memory} {u : State} (hm : s.mbuf.fillsSpan m S)
        (hu : overMessage { s with mbuf := m } f = .next u) : t.result = u.result := by
      obtain ⟨msg, hfill, hmsg⟩ := overMessage_filled_result hS hr hm hu
      rw [hmsg, (hf S).eq_zeroFill hdep hfill, hresult]
      rfl
    exact ⟨fun _ _ _ => hall, fun ⟨_, _, _, _, hm₁, hm₂, h₁, h₂, hne⟩ =>
      absurd ((hall hm₁ h₁).symm.trans (hall hm₂ h₂)) hne⟩
  | true =>
    rw [hdep] at hresult
    refine ⟨fun hagree => ?_, fun _ => hresult⟩
    obtain ⟨S', hS', hspan, _⟩ := overMessage_next h
    obtain rfl : S = S' := Option.some.inj (hS.symm.trans hS')
    obtain ⟨p, hp, hne⟩ := (dependsOnUninit_eq_true_iff _ _).1 hdep
    obtain ⟨m₁, u₁, hm₁, h₁, hp₁⟩ := exists_overMessage_filled (f := f) hS hr hspan (fills_of_mem_probes hp)
    obtain ⟨m₂, u₂, hm₂, h₂, hz₂⟩ := exists_overMessage_filled (f := f) hS hr hspan (zeroFill_fills _)
    have hsame := hagree m₁ m₂ u₁ u₂ hm₁ hm₂ h₁ h₂
    rw [hp₁, hz₂] at hsame
    exact absurd (setWidth_inj_of_le (resultWidth_le hw) hsame) hne

end Sys2Proof.Machine

/-! Message races: the model fault an access records, and the result of a command that raced (R240). -/

namespace Sys2Proof.Machine

variable {s : State} {a n : Nat}

/-- A write records `fault MsgRace` if it races and changes no model fault otherwise. -/
theorem writeMessage_faults_of_races (h : s.races true a n) (v : Word) :
    (s.writeMessage a n v).faults = { s.faults with msgRace := true } := by
  obtain ⟨S, hS⟩ := (races_iff s true a n).1 h
  rw [writeMessage_of_racingSnapshot hS]
  rfl

theorem writeMessage_faults_of_not_races (h : ¬ s.races true a n) (v : Word) :
    (s.writeMessage a n v).faults = s.faults := by
  rw [writeMessage_of_not_races h]

theorem readMessage_msgRace_of_races (h : s.races false a n) : (s.readMessage a n).faults.msgRace = true := by
  obtain ⟨S, hS⟩ := (races_iff s false a n).1 h
  rw [State.readMessage, hS]
  rfl

theorem readMessage_msgRace_of_not_races (h : ¬ s.races false a n) :
    (s.readMessage a n).faults.msgRace = s.faults.msgRace := by
  rw [readMessage_of_not_races h]

/-- Settles O45: the access is `writeMessage` or `readMessage`, and each decides by its racing snapshot. -/
theorem raceRecordsMsgRace : Obligations.RaceRecordsMsgRace := by
  intro s off size a v hoff halign hcap
  rw [access_write_cells hoff halign hcap, access_read_cells hoff halign hcap]
  exact ⟨fun h => congrArg ModelFaults.msgRace (writeMessage_faults_of_races h v), readMessage_msgRace_of_races,
    fun h => writeMessage_faults_of_not_races h v, readMessage_msgRace_of_not_races⟩

/-- After a race RESULT takes a free value of the command's width, whatever the message (log entry 8). -/
theorem State.completeValue_raced_result {w : Nat} (s : State) {S : Snapshot} (h : S.raced = true)
    (cs : List (Option Byte)) (f : List Byte → BitVec w) :
    (s.completeValue S cs f).result = ((Config.freeWord s.draws).setWidth w).setWidth 32 := by
  rw [State.completeValue_result, resultOpen, h, Bool.true_or, if_pos rfl]

/-- Settles O28: every command with a result ends in `completeValue`, at the command's own width. -/
theorem racedResultIsFree : Obligations.RacedResultIsFree := by
  intro i w s S hS hraced hvalid hw
  have hspan (hread : readsMessage i = true) := (spanInMbuf_iff S.base S.len s.cap).2 (hvalid.1 hread)
  cases i with
  | reflect => cases hw
  | rev8 | parity8 =>
    cases hw
    exact ⟨_, overOperands_eq _ hS, s.completeValue_raced_result hraced ..⟩
  | lfsr16 =>
    cases hw
    exact ⟨_, overCountedBits_eq _ hS ((bitCountOk_iff _).2 (hvalid.2 rfl)), s.completeValue_raced_result hraced ..⟩
  | _ =>
    cases hw
    exact ⟨_, overMessage_eq _ hS (hspan rfl), s.completeValue_raced_result hraced ..⟩

end Sys2Proof.Machine

/-! A warm reset (R230, R232). -/

namespace Sys2Proof.Machine

variable {s : State}

theorem mbufAfterReset_of_idle (hS : s.snapshot = none) : s.mbufAfterReset = s.mbuf := by
  rw [State.mbufAfterReset, hS]

/-- With a command in flight, a reset makes UNINIT the cells of its span if it is REFLECT, and keeps every other. -/
theorem read_mbufAfterReset_of_inFlight {S : Snapshot} (hS : s.snapshot = some S) (a : Nat) :
    s.mbufAfterReset.read a =
      if decode S.cmd = .ok .reflect ∧ S.inSpan a = true then none else s.mbuf.read a := by
  simp only [State.mbufAfterReset, hS, ← isReflect_iff]
  cases hreflect : S.isReflect with
  | true => simp [Memory.read_forgetSpan]
  | false => simp

theorem step_warmReset {ts : List Turn} (hts : s.schedule = .warmReset :: ts) :
    step s = .next (State.warmReset { s with schedule := ts }) := by
  rw [step, hts]
  rfl

/-- Settles O48: the reset is `warmReset`, and MBUF after it goes by the command in flight. -/
theorem warmResetClearsRegisters : Obligations.WarmResetClearsRegisters := by
  intro s ts hts
  refine ⟨s.mbufAfterReset, step_warmReset hts, fun a => ?_⟩
  cases hS : s.snapshot with
  | none => rw [mbufAfterReset_of_idle hS]
  | some S => exact read_mbufAfterReset_of_inFlight hS a

end Sys2Proof.Machine

/-! The polling loop (R88, R246): each scheduled turn either ends it or leaves the host at `wait` with one turn less, and
with no turn left it takes at most the completion of the command in flight and one more read of STATUS. -/

namespace Sys2Proof.Machine

variable {s t : State} {ops : List HostOp} {ts : List Turn}

theorem runSteps_succ (k : Nat) (h : step s = .next t) : runSteps (k + 1) s = runSteps k t := by
  rw [runSteps, h]

/-- Within `n` steps the host goes on with `ops`, with no command in flight and RESULT no longer unspecified. -/
def State.PollsWithin (s : State) (ops : List HostOp) (n : Nat) : Prop :=
  ∃ k t, k ≤ n ∧ runSteps k s = .next t ∧ t.program = ops ∧ t.busy = false ∧ t.resultUnseen = false

theorem State.PollsWithin.mono {m n : Nat} (hmn : m ≤ n) (h : s.PollsWithin ops m) : s.PollsWithin ops n := by
  obtain ⟨k, t, hk, ht⟩ := h
  exact ⟨k, t, hk.trans hmn, ht⟩

theorem State.PollsWithin.of_step {n : Nat} (hstep : step s = .next t) (h : t.PollsWithin ops n) :
    s.PollsWithin ops (n + 1) := by
  obtain ⟨k, u, hk, hrun, hu⟩ := h
  exact ⟨k + 1, u, Nat.succ_le_succ hk, (runSteps_succ k hstep).trans hrun, hu⟩

/-- One round of `wait`, in a turn of the host that the schedule gives or leaves to it. -/
theorem step_wait (hturn : s.schedule = .host :: ts ∨ (s.schedule = [] ∧ ts = [] ∧ s.snapshot = none))
    (hwait : s.program = .wait :: ops) :
    step s = .next { s with
      schedule := ts
      program := if s.busy then .wait :: ops else ops
      response := some ⟨.ok, some s.statusWord⟩
      resultUnseen := s.resultUnseen && s.busy } := by
  obtain ⟨_, hround, _⟩ := hostTurnPerformsTheNextAccess s ts ops hturn
  exact hround hwait

/-- A round that reads BUSY = 0 is the last. -/
theorem pollsWithin_of_idle (hturn : s.schedule = .host :: ts ∨ (s.schedule = [] ∧ ts = [] ∧ s.snapshot = none))
    (hwait : s.program = .wait :: ops) (hidle : s.busy = false) : s.PollsWithin ops 1 := by
  refine ⟨1, _, le_rfl, runSteps_succ 0 (step_wait hturn hwait), ?_, hidle, ?_⟩ <;> simp [hidle]

theorem exec_host_frame {i : Instr} (h : exec i s = .next t) :
    t.program = s.program ∧ t.schedule = s.schedule ∧ t.snapshot = none := by
  obtain ⟨S, _, _, ⟨_, rfl⟩ | ⟨_, w, cs, f, _, rfl⟩⟩ := exec_next h <;> exact ⟨rfl, rfl, rfl⟩

/-- After a turn of the engine no command is in flight, and the host and the schedule are as they were (R205). -/
theorem step_engine (h : s.Inv) (hturn : s.turn = .engine) :
    ∃ t, step s = .next t ∧ t.program = s.program ∧ t.schedule = s.schedule.tail ∧ t.snapshot = none := by
  obtain ⟨t, hstep⟩ := stepNeverStops s h
  refine ⟨t, hstep, ?_⟩
  rcases step_next hstep with ⟨hhost, _⟩ | ⟨_, hS, rfl⟩ | ⟨_, S, i, _, _, hexec⟩ | ⟨hreset, _⟩
  · cases hturn.symm.trans hhost
  · exact ⟨rfl, rfl, hS⟩
  · exact exec_host_frame hexec
  · cases hturn.symm.trans hreset

/-- With the schedule used up, a command in flight completes first (log entry 2). -/
theorem pollsWithin_of_unscheduled (h : s.Inv) (hwait : s.program = .wait :: ops) (hnil : s.schedule = []) :
    s.PollsWithin ops 2 := by
  cases hS : s.snapshot with
  | none => exact (pollsWithin_of_idle (.inr ⟨hnil, rfl, hS⟩) hwait (by rw [State.busy, hS]; rfl)).mono (by decide)
  | some S =>
    have hturn : s.turn = .engine := by
      rw [State.turn, hnil]
      exact if_pos (Option.isSome_of_eq_some hS)
    obtain ⟨t, hstep, hprogram, hschedule, hdone⟩ := step_engine h hturn
    rw [hnil] at hschedule
    exact (pollsWithin_of_idle (.inr ⟨hschedule, rfl, hdone⟩) (hprogram.trans hwait)
      (by rw [State.busy, hdone]; rfl)).of_step hstep

/-- A scheduled turn ends the loop or leaves the host at `wait` with that turn used up. -/
theorem step_at_wait (h : s.Inv) (hwait : s.program = .wait :: ops) {u : Turn} (hts : s.schedule = u :: ts) :
    s.PollsWithin ops 1 ∨ ∃ t, step s = .next t ∧ t.program = .wait :: ops ∧ t.schedule = ts := by
  cases u with
  | host =>
    cases hb : s.busy with
    | false => exact .inl (pollsWithin_of_idle (.inl hts) hwait hb)
    | true => exact .inr ⟨_, step_wait (.inl hts) hwait, by simp [hb], rfl⟩
  | engine =>
    obtain ⟨t, hstep, hprogram, hschedule, _⟩ := step_engine h (by rw [State.turn, hts]; rfl)
    exact .inr ⟨t, hstep, hprogram.trans hwait, by rw [hschedule, hts]; rfl⟩
  | warmReset => exact .inr ⟨_, step_warmReset hts, hwait, rfl⟩

theorem pollsWithin_schedule (h : s.Inv) (hwait : s.program = .wait :: ops) (hts : s.schedule = ts) :
    s.PollsWithin ops (ts.length + 2) := by
  induction ts generalizing s with
  | nil => exact pollsWithin_of_unscheduled h hwait hts
  | cons u ts ih =>
    rcases step_at_wait h hwait hts with hlast | ⟨t, hstep, hprogram, hschedule⟩
    · exact hlast.mono (by omega)
    · exact (ih (stepKeepsTheInvariant s t h hstep) hprogram hschedule).of_step hstep

/-- Settles O58: by induction on the schedule. -/
theorem pollingTerminates : Obligations.PollingTerminates := fun _ _ h hwait => pollsWithin_schedule h hwait rfl

end Sys2Proof.Machine

/-! The obligations about command words that are left: the round trip of Decode and the encoder, and sample words. -/

namespace Sys2Proof

/-- Settles O3: a command decodes from its own word, and from that word alone. -/
theorem decodeEncodeAgree : Obligations.DecodeEncodeAgree :=
  ⟨fun i _ => decode_encode i, fun _ _ => eq_encode_of_decode⟩

/-- Settles O1: each word is closed, so Decode is evaluated on it. -/
theorem sampleWordsDecode : Obligations.SampleWordsDecode := by
  unfold Obligations.SampleWordsDecode
  decide

end Sys2Proof

/-! The algebra of the CRC cores (R132): the degenerate cases, the XOR of two messages, and the MSB-first remainder as
that of a polynomial division over GF(2). -/

namespace Sys2Proof.Machine

/-! ### The degenerate cases (R132 items 1 and 5) -/

@[simp] theorem length_msbStream (msg : List Byte) : (msbStream msg).length = 8 * msg.length := by
  rw [msbStream_eq_map_range, List.length_map, List.length_range]

@[simp] theorem length_lsbStream (msg : List Byte) : (lsbStream msg).length = 8 * msg.length := by
  rw [lsbStream_eq_map_range, List.length_map, List.length_range]

/-- With a zero polynomial the feedback has no effect, and a step is a shift. -/
@[simp] theorem stepMsb_zero_poly {w : Nat} (r : BitVec w) (b : Bool) : stepMsb 0 r b = r <<< 1 := by
  simp [stepMsb]

@[simp] theorem stepLsb_zero_poly {w : Nat} (r : BitVec w) (b : Bool) : stepLsb 0 r b = r >>> 1 := by
  simp [stepLsb]

theorem foldl_stepMsb_zero_poly {w : Nat} (bits : List Bool) (r : BitVec w) :
    bits.foldl (stepMsb 0) r = r <<< bits.length := by
  induction bits generalizing r with
  | nil => simp
  | cons b bits ih =>
    rw [List.foldl_cons, ih, stepMsb_zero_poly, ← BitVec.shiftLeft_add, Nat.add_comm, List.length_cons]

theorem foldl_stepLsb_zero_poly {w : Nat} (bits : List Bool) (r : BitVec w) :
    bits.foldl (stepLsb 0) r = r >>> bits.length := by
  induction bits generalizing r with
  | nil => simp
  | cons b bits ih =>
    rw [List.foldl_cons, ih, stepLsb_zero_poly, ← BitVec.shiftRight_add, Nat.add_comm, List.length_cons]

/-- Settles O16: no bit takes no step, and a zero polynomial leaves one shift for each of the 8n bits. -/
theorem crcDegenerateCases : Obligations.CrcDegenerateCases := fun w p i msg =>
  ⟨rfl, rfl, by rw [crcMsb, foldl_stepMsb_zero_poly, length_msbStream],
    by rw [crcLsb, foldl_stepLsb_zero_poly, length_lsbStream]⟩

/-! ### The XOR of two messages (R132 item 3) -/

/-- Settles O14: the bits of the XOR are the XORs of the bits, and each step is linear in remainder and bit together. -/
theorem crcIsAffine : Obligations.CrcIsAffine := by
  intro w p i j a b hlen
  rw [crcMsb, crcLsb, msbStream_zipWith_xor hlen, lsbStream_zipWith_xor hlen]
  exact ⟨foldl_zipWith_xor (stepMsb_xor p) _ _ i j (length_msbStream_congr hlen),
    foldl_zipWith_xor (stepLsb_xor p) _ _ i j (length_lsbStream_congr hlen)⟩

/-! ### Division with remainder over GF(2) (R132 item 2) -/

open Polynomial

/-- A bit as an element of GF(2). -/
def bitGf2 (b : Bool) : ZMod 2 := if b then 1 else 0

/-- The sum of two bits in GF(2) is their XOR. -/
theorem bitGf2_xor (b c : Bool) : bitGf2 (b ^^ c) = bitGf2 b + bitGf2 c := by
  cases b <;> cases c <;> rfl

/-- The polynomial of a register: bit k is the coefficient of X^k. -/
noncomputable def registerPoly {w : Nat} (v : BitVec w) : (ZMod 2)[X] :=
  ∑ k ∈ Finset.range w, if v.getLsbD k then X ^ k else 0

/-- The polynomial of the bits f(0), ..., f(n - 1) of a message, the first of them at the highest power. -/
noncomputable def streamPoly (n : Nat) (f : Nat → Bool) : (ZMod 2)[X] :=
  ∑ k ∈ Finset.range n, if f k then X ^ (n - 1 - k) else 0

/-- The divisor G(x) = x^W + P(x) of a polynomial register. -/
noncomputable def divisorPoly {w : Nat} (p : BitVec w) : (ZMod 2)[X] := X ^ w + registerPoly p

theorem coeff_registerPoly {w : Nat} (v : BitVec w) (k : Nat) : (registerPoly v).coeff k = bitGf2 (v.getLsbD k) := by
  have hterm : ∀ j, (if v.getLsbD j then X ^ j else 0 : (ZMod 2)[X]).coeff k =
      if k = j then bitGf2 (v.getLsbD j) else 0 := fun j => by
    cases v.getLsbD j <;> simp [bitGf2, coeff_X_pow]
  rw [registerPoly, finsetSum_coeff, Finset.sum_congr rfl fun j _ => hterm j, Finset.sum_ite_eq]
  by_cases hk : k < w
  · rw [if_pos (Finset.mem_range.2 hk)]
  · rw [if_neg (mt Finset.mem_range.1 hk), BitVec.getLsbD_of_ge v k (not_lt.1 hk)]
    rfl

theorem registerPoly_xor {w : Nat} (x y : BitVec w) : registerPoly (x ^^^ y) = registerPoly x + registerPoly y := by
  ext k
  rw [coeff_add, coeff_registerPoly, coeff_registerPoly, coeff_registerPoly, BitVec.getLsbD_xor, bitGf2_xor]

theorem degree_registerPoly_lt {w : Nat} (v : BitVec w) : (registerPoly v).degree < w :=
  (degree_lt_iff_coeff_zero _ w).2 fun k hk => by
    rw [coeff_registerPoly, BitVec.getLsbD_of_ge v k hk]
    rfl

theorem divisorPoly_monic {w : Nat} (p : BitVec w) : (divisorPoly p).Monic :=
  monic_X_pow_add (degree_registerPoly_lt p)

theorem degree_divisorPoly {w : Nat} (p : BitVec w) : (divisorPoly p).degree = w := by
  rw [divisorPoly, degree_add_eq_left_of_degree_lt, degree_X_pow]
  rw [degree_X_pow]
  exact degree_registerPoly_lt p

/-- A shift multiplies by X, but for the bit that drops out at X^W. -/
theorem registerPoly_mul_X {w : Nat} (hw : 0 < w) (r : BitVec w) :
    registerPoly r * X = registerPoly (r <<< 1) + C (bitGf2 (r.getLsbD (w - 1))) * X ^ w := by
  ext k
  rw [coeff_add, coeff_registerPoly, coeff_C_mul, coeff_X_pow, BitVec.getLsbD_shiftLeft]
  cases k with
  | zero => simp [bitGf2, hw.ne]
  | succ k =>
    rw [coeff_mul_X, coeff_registerPoly]
    obtain hk | rfl | hk := lt_trichotomy (k + 1) w
    · simp [hk, hk.ne]
    · simp [bitGf2]
    · simp [hk.ne', BitVec.getLsbD_of_ge r k (Nat.lt_succ_iff.1 hk), bitGf2]

/-- One step brings the next bit in at X^W and subtracts the divisor when the feedback bit is 1 (R121). -/
theorem registerPoly_stepMsb {w : Nat} (hw : 0 < w) (p r : BitVec w) (b : Bool) :
    registerPoly (stepMsb p r b) =
      registerPoly r * X + C (bitGf2 b) * X ^ w - C (bitGf2 (r.getLsbD (w - 1) ^^ b)) * divisorPoly p := by
  have hstep : registerPoly (stepMsb p r b) =
      registerPoly (r <<< 1) - C (bitGf2 (r.getLsbD (w - 1) ^^ b)) * registerPoly p := by
    rw [stepMsb]
    cases r.getLsbD (w - 1) ^^ b <;> simp [bitGf2, registerPoly_xor, CharTwo.sub_eq_add]
  have hfb := congrArg C (bitGf2_xor (r.getLsbD (w - 1)) b)
  rw [C_add] at hfb
  rw [hstep, registerPoly_mul_X hw, divisorPoly, mul_add, hfb]
  ring

theorem streamPoly_succ (n : Nat) (f : Nat → Bool) : streamPoly (n + 1) f = streamPoly n f * X + C (bitGf2 (f n)) := by
  have hshift : ∀ k ∈ Finset.range n, (if f k then X ^ (n + 1 - 1 - k) else 0 : (ZMod 2)[X]) =
      (if f k then X ^ (n - 1 - k) else 0) * X := fun k hk => by
    have hlt := Finset.mem_range.1 hk
    rw [ite_mul, zero_mul, ← pow_succ, show n - 1 - k + 1 = n + 1 - 1 - k by omega]
  rw [streamPoly, Finset.sum_range_succ, Finset.sum_congr rfl hshift, ← Finset.sum_mul, ← streamPoly]
  cases f n <;> simp [bitGf2]

/-- The division as the serial core performs it: after n bits the register differs by a multiple of G from
I(x)·x^n + M(x)·x^W. -/
theorem divisorPoly_dvd_sub_remainder {w : Nat} (hw : 0 < w) (p i : BitVec w) (f : Nat → Bool) (n : Nat) :
    divisorPoly p ∣ registerPoly i * X ^ n + streamPoly n f * X ^ w -
      registerPoly ((List.range n).foldl (fun r k => stepMsb p r (f k)) i) := by
  induction n with
  | zero => simp [streamPoly]
  | succ n ih =>
    rw [List.range_succ, List.foldl_concat, registerPoly_stepMsb hw, streamPoly_succ]
    generalize (List.range n).foldl (fun r k => stepMsb p r (f k)) i = r at ih ⊢
    convert (ih.mul_right X).add (dvd_mul_left (divisorPoly p) (C (bitGf2 (r.getLsbD (w - 1) ^^ f n)))) using 1
    ring

/-- A register is its own remainder, so it is that of every polynomial that differs from it by a multiple of G. -/
theorem modByMonic_divisorPoly {w : Nat} {p r : BitVec w} {g : (ZMod 2)[X]}
    (h : divisorPoly p ∣ g - registerPoly r) : g %ₘ divisorPoly p = registerPoly r := by
  have hdegree : (registerPoly r).degree < (divisorPoly p).degree := by
    rw [degree_divisorPoly]
    exact degree_registerPoly_lt r
  rw [modByMonic_eq_of_dvd_sub (divisorPoly_monic p) h, (modByMonic_eq_self_iff (divisorPoly_monic p)).2 hdegree]

/-- Settles O13: the core runs over the indexed bits (R123), and its register stays below the degree of G. -/
theorem crcIsPolynomialRemainder : Obligations.CrcIsPolynomialRemainder := by
  intro w p i msg hw
  obtain ⟨hrun, _⟩ := crcRunsOverTheBitStream w p i msg
  refine (modByMonic_divisorPoly ?_).symm
  rw [hrun]
  exact divisorPoly_dvd_sub_remainder hw p i _ _

end Sys2Proof.Machine
